-- ==== Sys2Proof/Word.lean ====
section
/-! DEFINITION. The word types of the block and their plainest helpers. -/

namespace Sys2Proof

/-- A byte of the data channel or of a block memory. -/
abbrev Byte := BitVec 8

/-- A word of the host register bus (R61). -/
abbrev Word := BitVec 32

end Sys2Proof
end

