-- ==== Sys2Proof/Syntax.lean ====
section
/-! DEFINITION. The instructions: one constructor per row of spec/opcode_table.json. -/

namespace Sys2Proof

/-- The rows of the opcode table: the ten host commands of R92, the three codes the block sends (R101 to R103),
the five packet headers (R106, R108) and the reboot announcement (R111). -/
inductive Instr where
  /-- NOP (R151). -/
  | nop
  /-- FLUSH (R152). -/
  | flush
  /-- RESET_UNIT (R190) with the mode bits of R94. -/
  | resetUnit (playmode noreset altport : Bool)
  /-- LOAD_PLUGIN (R217). -/
  | loadPlugin
  /-- RUN_PLUGIN (R222). -/
  | runPlugin
  /-- READ_PACKET (R240). -/
  | readPacket
  /-- GET_VERSION (R290) with the length operand of R95. -/
  | getVersion (len : BitVec 16)
  /-- READ (R153). -/
  | read (len : BitVec 16)
  /-- WRITE (R154). -/
  | write (len : BitVec 16)
  /-- IMG_CLEAR (R212). -/
  | imgClear
  /-- VERSION_QUERY, block to unit (R101). -/
  | versionQuery
  /-- LOAD_HDR, block to unit (R102). -/
  | loadHdr
  /-- RUN_HDR, block to unit (R103). -/
  | runHdr
  /-- PKT_EOD, type 0: end of data (R108). -/
  | pktEod (sHi sLo : Byte)
  /-- PKT_PRG, type 1 (R108). -/
  | pktPrg (sHi sLo : Byte)
  /-- PKT_CHR, type 2 (R108). -/
  | pktChr (sHi sLo : Byte)
  /-- PKT_WRAM, type 3 (R108). -/
  | pktWram (sHi sLo : Byte)
  /-- PKT_RESET, type 4 (R109). -/
  | pktReset (sHi sLo : Byte)
  /-- REBOOT_ANNOUNCE (R111). -/
  | rebootAnnounce (aHi aLo : Byte)
deriving DecidableEq, Repr

end Sys2Proof
end

