-- ==== Sys2Proof/Decode.lean ====
section
/-! DEFINITION. The decoder and the encoder of the block's encodings (30_encoding.md), and the reading of a
word as spec/opcode_table.json numbers it. -/

namespace Sys2Proof

/-- An encoded instruction as the hardware carries it: a word written to `CMD` (R91), a byte sequence sent to the
unit in transmission order (R14), the three bytes of a packet header in arrival order (R106), or the two bytes of
a reboot announcement (R111). -/
inductive Code where
  | cmd (w : Word)
  | tx (bytes : List Byte)
  | header (sHi sLo t : Byte)
  | announce (aHi aLo : Byte)
deriving DecidableEq, Repr

/-- Why a code is no instruction. -/
inductive DecodeError where
  /-- R96: opcodes 0x0A to 0xFF. -/
  | badOpcode (opc : Byte)
  /-- R93: `ARG` not 0, or `ARG[7:3]` of RESET_UNIT not 0. -/
  | reservedArg (arg : Byte)
  /-- R93: `LEN` not 0. -/
  | reservedLen (len : BitVec 16)
  /-- R112: packet types 5 to 255. -/
  | badType (t : Byte)
  /-- No byte sequence of R101 to R103. -/
  | notAnnounced (bytes : List Byte)
deriving DecidableEq, Repr

/-! ### Constants of the wire (R101 to R103) -/

/-- R101: the version query, one byte. -/
def versionQueryBytes : List Byte := [0xA1]

/-- R102: `H_LOAD`. -/
def loadHdrBytes : List Byte := [0x4B, 0x00, 0x04, 0x04, 0xB4]

/-- R103: `H_RUN`. -/
def runHdrBytes : List Byte := [0x7E, 0x00, 0x04, 0x00, 0xE7]

/-! ### Host command words -/

/-- `OPC`, bits 7 to 0 (R91). -/
def cmdOpc (w : Word) : Byte := w.extractLsb' 0 8

/-- `ARG`, bits 15 to 8 (R91). -/
def cmdArg (w : Word) : Byte := w.extractLsb' 8 8

/-- `LEN`, bits 31 to 16 (R91). -/
def cmdLen (w : Word) : BitVec 16 := w.extractLsb' 16 16

/-- A command whose `ARG` must be 0 (R93). -/
def decodeNoArg (w : Word) (i : Instr) : Except DecodeError Instr :=
  if cmdArg w = 0 then .ok i else .error (.reservedArg (cmdArg w))

/-- A command whose `ARG` and `LEN` must be 0 (R93). -/
def decodePlain (w : Word) (i : Instr) : Except DecodeError Instr :=
  if cmdArg w = 0 then
    if cmdLen w = 0 then .ok i else .error (.reservedLen (cmdLen w))
  else .error (.reservedArg (cmdArg w))

/-- RESET_UNIT: `ARG[7:3]` and `LEN` must be 0 (R93, R94). -/
def decodeReset (w : Word) : Except DecodeError Instr :=
  if (cmdArg w).extractLsb' 3 5 = 0 then
    if cmdLen w = 0 then
      .ok (.resetUnit ((cmdArg w).getLsbD 0) ((cmdArg w).getLsbD 1) ((cmdArg w).getLsbD 2))
    else .error (.reservedLen (cmdLen w))
  else .error (.reservedArg (cmdArg w))

/-- Steps (1) and (2) of `DECODE` (R92): the opcode, then the reserved fields. -/
def decodeCommand (w : Word) : Except DecodeError Instr :=
  match (cmdOpc w).toNat with
  | 0 => decodePlain w .nop
  | 1 => decodePlain w .flush
  | 2 => decodeReset w
  | 3 => decodePlain w .loadPlugin
  | 4 => decodePlain w .runPlugin
  | 5 => decodePlain w .readPacket
  | 6 => decodeNoArg w (.getVersion (cmdLen w))
  | 7 => decodeNoArg w (.read (cmdLen w))
  | 8 => decodeNoArg w (.write (cmdLen w))
  | 9 => decodePlain w .imgClear
  | _ => .error (.badOpcode (cmdOpc w))

/-! ### Wire codes -/

/-- The packet types the source defines (R108). -/
inductive PktKind where
  | eod
  | prg
  | chr
  | wram
  | reset
deriving DecidableEq, Repr

/-- R108, R112: the kind of a type byte. -/
def pktKind (t : Byte) : Option PktKind :=
  match t.toNat with
  | 0 => some .eod
  | 1 => some .prg
  | 2 => some .chr
  | 3 => some .wram
  | 4 => some .reset
  | _ => none

/-- R106, R108, R112: a packet header. -/
def decodeHeader (sHi sLo t : Byte) : Except DecodeError Instr :=
  match pktKind t with
  | some .eod => .ok (.pktEod sHi sLo)
  | some .prg => .ok (.pktPrg sHi sLo)
  | some .chr => .ok (.pktChr sHi sLo)
  | some .wram => .ok (.pktWram sHi sLo)
  | some .reset => .ok (.pktReset sHi sLo)
  | none => .error (.badType t)

/-- R101 to R103: a byte sequence the block sends. -/
def decodeTx (bytes : List Byte) : Except DecodeError Instr :=
  if bytes = versionQueryBytes then .ok .versionQuery
  else if bytes = loadHdrBytes then .ok .loadHdr
  else if bytes = runHdrBytes then .ok .runHdr
  else .error (.notAnnounced bytes)

/-- The decoder, total on every code. -/
def decode : Code → Except DecodeError Instr
  | .cmd w => decodeCommand w
  | .tx bytes => decodeTx bytes
  | .header sHi sLo t => decodeHeader sHi sLo t
  | .announce aHi aLo => .ok (.rebootAnnounce aHi aLo)

/-! ### The encoder -/

/-- `{LEN, ARG, OPC}` (R91). -/
def cmdWord (len : BitVec 16) (arg opc : Byte) : Word := len ++ arg ++ opc

/-- `ARG` of RESET_UNIT: bit 0 PLAYMODE, bit 1 NORESET, bit 2 ALTPORT (R94). -/
def resetArg (playmode noreset altport : Bool) : Byte :=
  (0#5 ++ BitVec.ofBool altport ++ BitVec.ofBool noreset ++ BitVec.ofBool playmode : BitVec 8)

/-- The code of an instruction. -/
def encode : Instr → Code
  | .nop => .cmd (cmdWord 0 0 0x00)
  | .flush => .cmd (cmdWord 0 0 0x01)
  | .resetUnit pm nr ap => .cmd (cmdWord 0 (resetArg pm nr ap) 0x02)
  | .loadPlugin => .cmd (cmdWord 0 0 0x03)
  | .runPlugin => .cmd (cmdWord 0 0 0x04)
  | .readPacket => .cmd (cmdWord 0 0 0x05)
  | .getVersion len => .cmd (cmdWord len 0 0x06)
  | .read len => .cmd (cmdWord len 0 0x07)
  | .write len => .cmd (cmdWord len 0 0x08)
  | .imgClear => .cmd (cmdWord 0 0 0x09)
  | .versionQuery => .tx versionQueryBytes
  | .loadHdr => .tx loadHdrBytes
  | .runHdr => .tx runHdrBytes
  | .pktEod sHi sLo => .header sHi sLo 0
  | .pktPrg sHi sLo => .header sHi sLo 1
  | .pktChr sHi sLo => .header sHi sLo 2
  | .pktWram sHi sLo => .header sHi sLo 3
  | .pktReset sHi sLo => .header sHi sLo 4
  | .rebootAnnounce aHi aLo => .announce aHi aLo

/-! ### The numbering of spec/opcode_table.json

The table numbers a command word as R91 does, and a byte sequence with its FIRST byte most significant
("first byte most significant here"; `S_hi` is bits 23 to 16, `A_hi` bits 15 to 8). -/

/-- Byte `k` of `w`, byte 0 least significant. -/
def byteOfNat (w k : Nat) : Byte := BitVec.ofNat 8 (w / 2 ^ (8 * k))

/-- The code a table row of `nbits` bits stands for. Sixteen bits are what the table gives GET_VERSION, READ and
WRITE (their `LEN` word is 0 then) and REBOOT_ANNOUNCE; a 16-bit number that spells one of the three commands is
read as that command (DESIGN CHOICE, log 7). Eight bits are VERSION_QUERY, or the type byte of a header whose size
bytes are 0. -/
def codeOfTableWord (nbits w : Nat) : Code :=
  match nbits with
  | 0 => .announce 0 0
  | 8 => if w = 0xA1 then .tx [byteOfNat w 0] else .header 0 0 (byteOfNat w 0)
  | 16 =>
    if w = 6 ∨ w = 7 ∨ w = 8 then .cmd (BitVec.ofNat 32 w)
    else .announce (byteOfNat w 1) (byteOfNat w 0)
  | 24 => .header (byteOfNat w 2) (byteOfNat w 1) (byteOfNat w 0)
  | 32 => .cmd (BitVec.ofNat 32 w)
  | 40 => .tx [byteOfNat w 4, byteOfNat w 3, byteOfNat w 2, byteOfNat w 1, byteOfNat w 0]
  | _ => .tx []

/-- The instruction the decoder reads from a table word. -/
def decodeTableWord (nbits w : Nat) : Option Instr :=
  match decode (codeOfTableWord nbits w) with
  | .ok i => some i
  | .error _ => none

end Sys2Proof
end

