-- ==== Sys2Proof/Config.lean ====
section
/-! DEFINITION. The implementation parameters of R6, the ports of one step (R11), and the free values the
spec leaves open (R13, R343). A model takes the parameters as arguments (R6): they stand in the state as one
record that no step changes, so a claim about every state is a claim about every parameter value. -/

namespace Sys2Proof

/-- `UV_FLAG_POLICY` (R6, decision D31): whether a patch also writes the record's enabled-flag byte. -/
inductive UvFlagPolicy where
  | untouched
  | writeOne
deriving DecidableEq, Repr, Inhabited

/-- `CHUNK_READ_POLICY` (R6, decision D15): which ReadData sub-reads fail. -/
inductive ChunkReadPolicy where
  | failOnZero
  | failOnShort
deriving DecidableEq, Repr, Inhabited

/-- The parameters of R6 that the source does not fix. The three tick counts are 32 bits wide because the
registers they are loaded into are (R44, R45; DEDUCED, log 14). -/
structure Params where
  /-- `CLK_HZ`: clock frequency of `clk`; only the bit-level refinement depends on it. -/
  clkHz : Nat
  /-- `BAUD_CYCLES`: the integer nearest `CLK_HZ / 115200`. -/
  baudCycles : Nat
  /-- `BASE`: where the platform places the register window (R60). -/
  base : Nat
  /-- `FRAME_CYCLES`: steps one character occupies on the line. -/
  frameCycles : Nat
  /-- `TICK_CYCLES`: steps per timebase tick. -/
  tickCycles : Nat
  /-- `SHORT_DELAY`, in ticks. -/
  shortDelay : BitVec 32
  /-- `LONG_DELAY`, in ticks. -/
  longDelay : BitVec 32
  /-- `WRITE_STALL_TIMEOUT`, in ticks. -/
  writeStall : BitVec 32
  /-- `RX_FIFO_DEPTH`. -/
  rxFifoDepth : Nat
  /-- `TX_FIFO_DEPTH`. -/
  txFifoDepth : Nat
  /-- `RTS_HEADROOM`. -/
  rtsHeadroom : Nat
  /-- `MAX_BLOCKS`. -/
  maxBlocks : Nat
  /-- `DBUF_BYTES`. -/
  dbufBytes : Nat
  /-- `UV_RECORD_SIZE`. -/
  uvRecordSize : Nat
  /-- `UV_FLAG_POLICY`. -/
  uvFlagPolicy : UvFlagPolicy
  /-- `CHUNK_READ_POLICY`. -/
  chunkReadPolicy : ChunkReadPolicy
  /-- `AUX_OUT_W`. -/
  auxOutW : Nat
  /-- `AUX_IN_W`. -/
  auxInW : Nat
deriving DecidableEq, Repr, Inhabited

/-- The ranges R6 gives the parameters. -/
def Params.wf (p : Params) : Bool :=
  decide (1 ≤ p.frameCycles) && decide (1 ≤ p.tickCycles) && decide (1 ≤ p.writeStall.toNat) &&
  decide (2 ≤ p.rxFifoDepth) && decide (1 ≤ p.txFifoDepth) &&
  decide (1 ≤ p.rtsHeadroom) && decide (p.rtsHeadroom ≤ p.rxFifoDepth) &&
  decide (1 ≤ p.maxBlocks) && decide (p.maxBlocks ≤ 65535) &&
  decide (1 ≤ p.dbufBytes) && decide (p.dbufBytes ≤ 65535) &&
  decide (2 ≤ p.uvRecordSize) && decide (p.uvRecordSize ≤ 256) &&
  decide (p.auxOutW ≤ 6) && decide (p.auxInW ≤ 7)

/-- What R6 adds for the bit-level refinement: `FRAME_CYCLES = 10 * BAUD_CYCLES` and `BAUD_CYCLES` an integer
nearest to `CLK_HZ / 115200` (the spec does not say which where two are equally near; both are admitted). -/
def Params.bitLevelWf (p : Params) : Bool :=
  decide (1 ≤ p.baudCycles) && decide (p.frameCycles = 10 * p.baudCycles) &&
  decide (2 * p.clkHz ≤ (2 * p.baudCycles + 1) * 115200) &&
  decide ((2 * p.baudCycles - 1) * 115200 ≤ 2 * p.clkHz)

/-- `PKT_MEM_BYTES = 256 * MAX_BLOCKS` (R6). -/
def Params.pktMemBytes (p : Params) : Nat := 256 * p.maxBlocks

/-- Parameter set P of 95_test_vectors.md, section 0. DESIGN CHOICE (log 1): the parameters of `State.reset`. -/
def Params.setP : Params where
  clkHz := 115200
  baudCycles := 1
  base := 0
  frameCycles := 10
  tickCycles := 1
  shortDelay := 2
  longDelay := 3
  writeStall := 10
  rxFifoDepth := 4096
  txFifoDepth := 4
  rtsHeadroom := 16
  maxBlocks := 16
  dbufBytes := 64
  uvRecordSize := 4
  uvFlagPolicy := .untouched
  chunkReadPolicy := .failOnZero
  auxOutW := 0
  auxInW := 3

/-! ### The ports of one step (R11) -/

/-- The host bus access of one step (R61). -/
inductive Bus where
  | none
  | read (addr : BitVec 8)
  | write (addr : BitVec 8) (data : BitVec 32)
deriving DecidableEq, Repr, Inhabited

/-- A receiver event (R11): nothing, a whole byte, or a character whose stop bit was sampled 0 (R133). -/
inductive RxEvent where
  | none
  | byte (b : Byte)
  | ferr
deriving DecidableEq, Repr, Inhabited

/-- What drives the receive side in a step: a byte-level event (R10, the normative level), or the level of the
serial input `rxd_i`, from which the bit-level receiver of R143 makes the event. -/
inductive RxPort where
  | event (e : RxEvent)
  | line (level : Bool)
deriving DecidableEq, Repr, Inhabited

/-- The inputs of one step (R11), with `rst` (R8). Of `aux` the low `AUX_IN_W` bits are the port. -/
structure Inputs where
  rst : Bool
  bus : Bus
  rx : RxPort
  cts : Bool
  psense : Bool
  aux : BitVec 7
deriving DecidableEq, Repr, Inhabited

/-- A step in which nothing is asserted: no reset, no access, no event, every line 0. -/
def Inputs.quiet : Inputs :=
  { rst := false, bus := .none, rx := .event .none, cts := false, psense := false, aux := 0 }

/-- The outputs of one step (R11); `txdO` is the bit-level serial output of R144. `rdata` is present only in a
step with a read ("meaningful on a read"). -/
structure Outputs where
  rdata : Option Word
  txEv : Option Byte
  dtrO : Bool
  modeO : Bool
  rtsO : Bool
  auxO : BitVec 6
  txdO : Bool
deriving DecidableEq, Repr, Inhabited

/-- The three block memories of R15 and R60. -/
inductive MemId where
  | img
  | pkt
  | dbuf
deriving DecidableEq, Repr, Inhabited

/-! ### Free values -/

/-- Which input lines' synchronisers capture a pulse that ends in a step (R181), a bit for each line. -/
structure Capture where
  cts : Bool
  psense : Bool
  aux : BitVec 7
deriving DecidableEq, Repr, Inhabited

/-- The inputs of the `n`-th step that no schedule gives: R13 leaves the host and the unit unconstrained. -/
opaque Config.envInput : Nat → Inputs

/-- Whether a pulse of one step that ends in the `n`-th step was captured, for each line (R181 and
93_implementation_defined.md section 3 row 14: "any value: it may or may not be captured"). -/
opaque Config.pulseCapture : Nat → Capture

/-- The unspecified content of byte `a` of memory `m` after the `epoch`-th reset (R53, R54, R58, R343: "a model
gives each byte an arbitrary value (a draw)"). -/
opaque Config.memDraw (m : MemId) (epoch a : Nat) : Byte

end Sys2Proof
end

