-- ==== Sys2Proof/Machine/State.lean ====
section
/-! DEFINITION. The state of the block (10_state.md, R21), its value after reset (R341), and the reasons a step can
stop. -/

namespace Sys2Proof.Machine

/-- The engine state `eng` (R36). -/
inductive Eng where
  | idle
  | decode
  | rsMode
  | rsAssert
  | rsHold1
  | rsDeassert
  | rsHold2
  | rsFinish
  | ldHdr
  | ldPay
  | ldFinish
  | rnClear
  | rnHdr
  | pk
  | recCheck
  | recWait
  | vpSend
  | vpRead
  | rrRead
  | rwWrite
deriving DecidableEq, Repr

/-- `ctx` (R36): on whose behalf the reset, load and run steps run. -/
inductive Ctx where
  | cmd
  | recovery
deriving DecidableEq, Repr

/-- The packet framer state `FS` (R37). -/
inductive Framer where
  | idle
  | start
  | readSizeHigh
  | readSizeLow
  | readFormat
  | readData
  | doReset
  | readRebootByteHigh
  | readRebootByteLow
  | endState
deriving DecidableEq, Repr

/-- Command and status registers (R22 to R31). -/
structure Status where
  cmdLast : BitVec 32
  busy : Bool
  pktValid : Bool
  pluginValid : Bool
  cmdRej : Bool
  rxOvr : Bool
  rxFerr : Bool
  result : BitVec 4
  lastErr : BitVec 4
deriving DecidableEq, Repr

/-- The control-line output register (R33); of `auxOut` the low `AUX_OUT_W` bits exist. -/
structure Lines where
  dtr : Bool
  mode : Bool
  auxOut : BitVec 6
deriving DecidableEq, Repr

/-- The session counters (R34, R35). -/
structure Session where
  rbyte : BitVec 16
  rcount : BitVec 16
deriving DecidableEq, Repr

/-- The engine state register (R36) and the framer state (R37). -/
structure Engine where
  eng : Eng
  ctx : Ctx
  fs : Framer
deriving DecidableEq, Repr

/-- The framer working registers (R38). -/
structure Work where
  hb : BitVec 8
  blocks : BitVec 16
  size : BitVec 24
  i : BitVec 24
  j : BitVec 11
  ftype : BitVec 8
deriving DecidableEq, Repr

/-- One user-variable patch register (R41). -/
structure UserVar where
  en : Bool
  value : BitVec 8
deriving DecidableEq, Repr

/-- The registers the host writes (R32, R40, R41) and the transfer count it reads (R42). -/
structure HostRegs where
  timeout : BitVec 32
  pktPtr : BitVec 24
  imgPtr : BitVec 10
  dbufPtr : BitVec 16
  uv : Vector UserVar 4
  xferCount : BitVec 16
deriving DecidableEq, Repr

/-- Logical-read registers (R43). -/
structure ReadRegs where
  act : Bool
  got : BitVec 16
  budget : BitVec 32
deriving DecidableEq, Repr

/-- Write registers (R44). -/
structure WriteRegs where
  act : Bool
  idx : BitVec 16
  sent : BitVec 16
  stall : BitVec 32
deriving DecidableEq, Repr

/-- Delay registers (R45). -/
structure DelayRegs where
  act : Bool
  cnt : BitVec 32
deriving DecidableEq, Repr

/-- Latched command operands (R46). -/
structure Latched where
  rmode : BitVec 3
  len : BitVec 16
deriving DecidableEq, Repr

/-- The two FIFOs, oldest byte first (R47, R48). -/
structure Fifos where
  rxq : List Byte
  txq : List Byte
deriving DecidableEq, Repr

/-- Transmitter state (R49), and the character on the line, which only the bit-level output of R144 reads. -/
structure Transmitter where
  busy : Bool
  cnt : Nat
  byte : BitVec 8
deriving DecidableEq, Repr

/-- The input synchronisers (R51). -/
structure Sync where
  cts1 : Bool
  cts2 : Bool
  ps1 : Bool
  ps2 : Bool
  aux1 : BitVec 7
  aux2 : BitVec 7
deriving DecidableEq, Repr

/-- A block memory: address and byte pairs in canonical form (`Memory.wf` of Machine/Ops.lean). -/
abbrev Memory := List Host.Cell

/-- The three memories (R52 to R54). -/
structure Memories where
  img : Memory
  pkt : Memory
  dbuf : Memory
deriving DecidableEq, Repr

/-- Where the bit-level receiver of R143 stands in a character. `left` counts the steps before the next sample. -/
inductive RxPhase where
  | waitHigh
  | idle
  | start (left : Nat)
  | data (got : Nat) (left : Nat) (shift : BitVec 8)
  | stop (left : Nat) (shift : BitVec 8)
deriving DecidableEq, Repr

/-- The bit-level receiver (R143): the synchroniser of `rxd_i`, the phase, and the event for the next step. -/
structure BitRx where
  s1 : Bool
  s2 : Bool
  phase : RxPhase
  pending : RxEvent
deriving DecidableEq, Repr

/-- The state: every element of R21, then the bit-level refinement's (R143, R144), then the model's own fields
`env`, `draws`, `epoch` and `out` (INVENTORY.md; log 2, 3, 4). `cfg` holds the parameters of R6 (log 1). -/
structure State where
  cfg : Params
  status : Status
  lines : Lines
  session : Session
  engine : Engine
  work : Work
  host : HostRegs
  rd : ReadRegs
  wr : WriteRegs
  dly : DelayRegs
  latched : Latched
  fifo : Fifos
  tx : Transmitter
  tickCnt : Nat
  sync : Sync
  mem : Memories
  bitRx : BitRx
  env : List Inputs
  draws : Nat
  epoch : Nat
  out : Outputs
deriving DecidableEq, Repr

/-- Why a step stops. -/
inductive Fault where
  /-- Raised by the framer step of READ_PACKET when `eng` is `PK` and `FS` is `Idle`: R240 gives that pair no rule
  and R37 rules it out, so no run reaches it. Safe: the model stops where the spec says nothing (log 10). -/
  | framerIdle
deriving DecidableEq, Repr

/-- Why a step is refused. -/
inductive Refusal where
  /-- Answered by an arm of `exec` whose instruction has no meaning yet; no arm answers it. Safe. -/
  | notModelled (mnemonic : String)
deriving DecidableEq, Repr

/-- The outputs before any step: the port levels of R342, no read and no transmit event (log 3). -/
def portsAfterReset : Outputs :=
  { rdata := none, txEv := none, dtrO := true, modeO := true, rtsO := true, auxO := 0, txdO := true }

/-- The state after reset for given parameters (R341). -/
def State.resetWith (p : Params) : State where
  cfg := p
  status :=
    { cmdLast := 0, busy := false, pktValid := false, pluginValid := false, cmdRej := false, rxOvr := false,
      rxFerr := false, result := 0, lastErr := 0 }
  lines := { dtr := true, mode := true, auxOut := 0 }
  session := { rbyte := 0, rcount := 0 }
  engine := { eng := .idle, ctx := .cmd, fs := .idle }
  work := { hb := 0, blocks := 0, size := 0, i := 0, j := 0, ftype := 0 }
  host :=
    { timeout := 0, pktPtr := 0, imgPtr := 0, dbufPtr := 0, uv := Vector.replicate 4 { en := false, value := 0 },
      xferCount := 0 }
  rd := { act := false, got := 0, budget := 0 }
  wr := { act := false, idx := 0, sent := 0, stall := 0 }
  dly := { act := false, cnt := 0 }
  latched := { rmode := 0, len := 0 }
  fifo := { rxq := [], txq := [] }
  tx := { busy := false, cnt := 0, byte := 0 }
  tickCnt := 0
  sync := { cts1 := false, cts2 := false, ps1 := false, ps2 := false, aux1 := 0, aux2 := 0 }
  mem := { img := [], pkt := [], dbuf := [] }
  bitRx := { s1 := false, s2 := false, phase := .waitHigh, pending := .none }
  env := []
  draws := 0
  epoch := 0
  out := portsAfterReset

/-- The state after reset, for parameter set P (log 1). -/
def State.reset : State := State.resetWith Params.setP

end Sys2Proof.Machine
end

