-- ==== Sys2Proof/Machine/Ops.lean ====
section
/-! DEFINITION. The named operations: command completion and abort (60_exceptions.md), the block memories
(20_memory.md), and the four primitives RD, WR, WAIT, FLUSH (40_channel.md) every command is built from. -/

namespace Sys2Proof.Machine

/-- The low `w` bits of `v`: a field whose width is a parameter (R33, R51, R171). -/
def maskLow {n : Nat} (w : Nat) (v : BitVec n) : BitVec n := v &&& BitVec.ofNat n (2 ^ w - 1)

/-- `tick` (R141), on the value of `tick_cnt` at the start of the step: phases P1 to P4 do not write it. -/
def tick (s : State) : Bool := decide (s.tickCnt + 1 = s.cfg.tickCycles)

/-! ### Engine transitions -/

/-- `goto S` for an engine state (R15). -/
def gotoEng (e : Eng) (s : State) : State := { s with engine.eng := e }

/-- `FS <- f` (R37). -/
def gotoFs (f : Framer) (s : State) : State := { s with engine.fs := f }

/-- The engine register of an idle block (R303, R304). -/
def idleEngine : Engine := { eng := .idle, ctx := .cmd, fs := .idle }

/-- The error kinds of R113. -/
inductive ErrKind where
  | dataOpen
  | controlOpen
  | commandSend
  | blockSend
  | dataRead
  | pluginOpen
  | invalidParams
  | writeError
  | oversize
  | badType
deriving DecidableEq, Repr

/-- R113: the code of an error. -/
def errCode : ErrKind → BitVec 4
  | .dataOpen => 1
  | .controlOpen => 2
  | .commandSend => 3
  | .blockSend => 4
  | .dataRead => 5
  | .pluginOpen => 6
  | .invalidParams => 7
  | .writeError => 8
  | .oversize => 9
  | .badType => 10

/-- `complete()` (R303): the successful end of a command. -/
def complete (s : State) : State :=
  { s with status := { s.status with result := 0, busy := false }, engine := idleEngine }

/-- `raise e` (R304): the abort of the command in progress, the block's one exception. It saves the code, clears
the primitives' activity and goes to no handler. -/
def raiseError (e : ErrKind) (s : State) : State :=
  { s with
    status := { s.status with result := errCode e, lastErr := errCode e, busy := false }
    engine := idleEngine
    rd.act := false
    wr.act := false
    dly.act := false }

/-! ### Memories -/

/-- What an unlisted address of a memory reads as: `IMG` resets to 0 (R52); `PKT_MEM` and `DBUF` have no value
until written (R53, R54, R58). -/
def unlisted : MemId → Option Byte
  | .img => some 0
  | .pkt => none
  | .dbuf => none

/-- How many bytes a memory has (R52 to R54, R60). -/
def memBytes (p : Params) : MemId → Nat
  | .img => 1024
  | .pkt => p.pktMemBytes
  | .dbuf => p.dbufBytes

/-- The listed byte at an address. -/
def Memory.find : Memory → Nat → Option Byte
  | [], _ => none
  | (x, b) :: m, a => if x = a then some b else Memory.find m a

/-- The list with the cell at `a` set to `v`, in place by address order. -/
def Memory.put : Memory → Nat → Byte → Memory
  | [], a, v => [(a, v)]
  | (x, b) :: m, a, v =>
    if a < x then (a, v) :: (x, b) :: m
    else if a = x then (a, v) :: m
    else (x, b) :: Memory.put m a v

/-- The list without a cell at `a`. -/
def Memory.erase : Memory → Nat → Memory
  | [], _ => []
  | (x, b) :: m, a => if x = a then m else (x, b) :: Memory.erase m a

/-- A write in canonical form: writing what an unlisted address reads as removes the cell. -/
def Memory.store (dflt : Option Byte) (m : Memory) (a : Nat) (v : Byte) : Memory :=
  if dflt = some v then Memory.erase m a else Memory.put m a v

/-- Addresses strictly rising. -/
def Memory.sorted : Memory → Bool
  | [] => true
  | [_] => true
  | (x, _) :: (y, c) :: m => decide (x < y) && Memory.sorted ((y, c) :: m)

/-- The canonical form: addresses strictly rising and below `bytes`, no cell equal to what an unlisted address
reads as. -/
def Memory.wf (dflt : Option Byte) (bytes : Nat) (m : Memory) : Bool :=
  Memory.sorted m && m.all (fun c => decide (c.1 < bytes) && decide (dflt ≠ some c.2))

/-- The memory named `id`. -/
def Memories.of (m : Memories) : MemId → Memory
  | .img => m.img
  | .pkt => m.pkt
  | .dbuf => m.dbuf

/-- The memories with the one named `id` replaced. -/
def Memories.set (m : Memories) (id : MemId) (x : Memory) : Memories :=
  match id with
  | .img => { m with img := x }
  | .pkt => { m with pkt := x }
  | .dbuf => { m with dbuf := x }

/-- All three memories are in canonical form. -/
def Memories.wf (p : Params) (m : Memories) : Bool :=
  Memory.wf (unlisted .img) (memBytes p .img) m.img && Memory.wf (unlisted .pkt) (memBytes p .pkt) m.pkt &&
  Memory.wf (unlisted .dbuf) (memBytes p .dbuf) m.dbuf

/-- `MemRead(M, a, 1)` (R15). A byte of `PKT_MEM` or `DBUF` not written since reset reads as a free value (R343,
log 4); an index the memory does not have reads 0 (decision D5, DEDUCED, log 5). -/
def memRead (id : MemId) (a : Nat) (s : State) : Byte :=
  if a < memBytes s.cfg id then
    match Memory.find (s.mem.of id) a with
    | some b => b
    | none =>
      match unlisted id with
      | some b => b
      | none => Config.memDraw id s.epoch a
  else 0

/-- `MemWrite(M, a, 1, v)` (R15). An index the memory does not have stores nothing (decision D5). -/
def memWrite (id : MemId) (a : Nat) (v : Byte) (s : State) : State :=
  if a < memBytes s.cfg id then
    { s with mem := s.mem.set id (Memory.store (unlisted id) (s.mem.of id) a v) }
  else s

/-! ### FLUSH (R149) -/

/-- `FLUSH()`: both FIFOs are emptied; a character on the line is not touched. The control channel has no buffer
(R150). -/
def flushFifos (s : State) : State := { s with fifo := { rxq := [], txq := [] } }

/-! ### RD (R145) -/

/-- What a logical read returns in a step. -/
inductive ReadResult where
  | pending
  | done (n : Nat)
deriving DecidableEq, Repr

/-- A step of a logical read: its result, the byte it took from `rxq` in this step (a wire, not state), and the
state it leaves. -/
structure ReadStep where
  result : ReadResult
  popped : Option Byte
  state : State
deriving Repr

/-- The start of a read: a fresh budget of `TIMEOUT` ticks. -/
def readStart (s : State) : State :=
  if s.rd.act then s else { s with rd := { act := true, got := 0, budget := s.host.timeout } }

/-- Take at most one byte, the oldest, and place it by `dst`. -/
def readTake (dst : Nat → Byte → State → State) (r : Nat) (s : State) : Option Byte × State :=
  match s.fifo.rxq with
  | [] => (none, s)
  | b :: q =>
    if s.rd.got.toNat < r then
      (some b, dst s.rd.got.toNat b { s with fifo.rxq := q, rd.got := s.rd.got + 1 })
    else (none, s)

/-- End the read (complete, or short when the budget is used up), or go on. -/
def readEnd (r : Nat) (s : State) : ReadResult × State :=
  if s.rd.got.toNat = r then (.done s.rd.got.toNat, { s with rd.act := false })
  else if s.rd.budget = 0 then (.done s.rd.got.toNat, { s with rd.act := false })
  else if tick s then (.pending, { s with rd.budget := s.rd.budget - 1 })
  else (.pending, s)

/-- `RD(dst, r)` (R145), called in every step its calling state holds. `dst k b` places the `k`-th byte. -/
def logicalRead (dst : Nat → Byte → State → State) (r : Nat) (s : State) : ReadStep :=
  let took := readTake dst r (readStart s)
  let ended := readEnd r took.2
  { result := ended.1, popped := took.1, state := ended.2 }

/-- The destination of a read whose byte is only a wire (`lb` of R244 and R259). -/
def noStore (_ : Nat) (_ : Byte) (s : State) : State := s

/-- A state that reads exactly one byte (R243 to R245, R258, R259): pending, or `got` on the byte, or
DataReadError on a short read. -/
def readOneByte (got : Byte → State → State) (s : State) : State :=
  let o := logicalRead noStore 1 s
  match o.result, o.popped with
  | .pending, _ => o.state
  | .done _, some b => got b o.state
  | .done _, none => raiseError .dataRead o.state

/-! ### WR (R147) -/

/-- What a logical write returns in a step. -/
inductive WriteResult where
  | pending
  | done
  | failed
deriving DecidableEq, Repr

/-- A step of a logical write. -/
structure WriteStep where
  result : WriteResult
  state : State
deriving Repr

/-- The start of a write. -/
def writeStart (s : State) : State :=
  if s.wr.act then s else { s with wr := { act := true, idx := 0, sent := 0, stall := s.cfg.writeStall } }

/-- Push at most one byte, and whether one was pushed. -/
def writePush (src : Nat → State → Byte) (n : Nat) (s : State) : Bool × State :=
  if s.wr.idx.toNat < n ∧ s.fifo.txq.length < s.cfg.txFifoDepth then
    (true, { s with fifo.txq := s.fifo.txq ++ [src s.wr.idx.toNat s], wr.idx := s.wr.idx + 1 })
  else (false, s)

/-- End the write when every byte has left the transmitter, fail it on a stall, or go on. -/
def writeEnd (n : Nat) (pushed : Bool) (s : State) : WriteStep :=
  if s.wr.idx.toNat = n ∧ s.fifo.txq = [] ∧ s.tx.busy = false then
    { result := .done, state := { s with wr.act := false } }
  else if pushed then { result := .pending, state := { s with wr.stall := s.cfg.writeStall } }
  else if s.tx.busy then { result := .pending, state := s }
  else if s.wr.stall = 0 then { result := .failed, state := { s with fifo.txq := [], wr.act := false } }
  else if tick s then { result := .pending, state := { s with wr.stall := s.wr.stall - 1 } }
  else { result := .pending, state := s }

/-- `WR(src, n, err)` (R147); the caller gives `err`. -/
def logicalWrite (src : Nat → State → Byte) (n : Nat) (s : State) : WriteStep :=
  let p := writePush src n (writeStart s)
  writeEnd n p.1 p.2

/-- An engine state that holds one write: stay, go on by `next`, or abort with `err`. -/
def sendThen (src : Nat → State → Byte) (n : Nat) (err : ErrKind) (next : State → State) (s : State) : State :=
  let w := logicalWrite src n s
  match w.result with
  | .pending => w.state
  | .done => next w.state
  | .failed => raiseError err w.state

/-- Byte `k` of a fixed sequence (R101 to R103). -/
def constBytes (bytes : List Byte) (k : Nat) (_ : State) : Byte := bytes.getD k 0

/-! ### WAIT (R148) -/

/-- The start of a delay of `n` ticks. -/
def delayStart (n : BitVec 32) (s : State) : State :=
  if s.dly.act then s else { s with dly := { act := true, cnt := n } }

/-- End the delay, or count a tick; whether it ended. -/
def delayEnd (s : State) : Bool × State :=
  if s.dly.cnt = 0 then (true, { s with dly.act := false })
  else if tick s then (false, { s with dly.cnt := s.dly.cnt - 1 })
  else (false, s)

/-- `WAIT(n)` (R148), and whether it is done. -/
def waitTicks (n : BitVec 32) (s : State) : Bool × State := delayEnd (delayStart n s)

/-- An engine state that holds one delay. -/
def waitThen (n : BitVec 32) (next : State → State) (s : State) : State :=
  let w := waitTicks n s
  if w.1 then next w.2 else w.2

end Sys2Proof.Machine
end

