-- ==== Sys2Proof/Machine/Flags.lean ====
section
/-! DEFINITION. The status and control words the host reads, and the flags and levels computed from the state. -/

namespace Sys2Proof.Machine

/-- R114: the code of a framer state. -/
def framerCode : Framer → BitVec 4
  | .idle => 0
  | .start => 1
  | .readSizeHigh => 2
  | .readSizeLow => 3
  | .readFormat => 4
  | .readData => 5
  | .doReset => 6
  | .readRebootByteHigh => 7
  | .readRebootByteLow => 8
  | .endState => 9

/-- `POWER_ON` (R26): `NOT ps_s2`. -/
def powerOn (s : State) : Bool := !s.sync.ps2

/-- `STATUS` (R68). -/
def statusWord (s : State) : Word :=
  (0#12 ++ framerCode s.engine.fs ++ 0#4 ++ s.status.result ++ 0#1 ++ BitVec.ofBool s.status.rxFerr ++
    BitVec.ofBool s.status.rxOvr ++ BitVec.ofBool s.status.cmdRej ++ BitVec.ofBool (powerOn s) ++
    BitVec.ofBool s.status.pluginValid ++ BitVec.ofBool s.status.pktValid ++ BitVec.ofBool s.status.busy : BitVec 32)

/-- A write of `STATUS` (R69): a 1 in bits 4, 5, 6 clears CMD_REJ, RX_OVR, RX_FERR. -/
def clearSticky (data : Word) (s : State) : State :=
  { s with status := { s.status with
      cmdRej := s.status.cmdRej && !data.getLsbD 4
      rxOvr := s.status.rxOvr && !data.getLsbD 5
      rxFerr := s.status.rxFerr && !data.getLsbD 6 } }

/-- R66: a write while busy. -/
def rejectWrite (s : State) : State := { s with status.cmdRej := true }

/-- `CTRL` (R171, R172). -/
def ctrlWord (s : State) : Word :=
  (0#16 ++ maskLow s.cfg.auxInW s.sync.aux2 ++ BitVec.ofBool s.sync.ps2 ++ maskLow s.cfg.auxOutW s.lines.auxOut ++
    BitVec.ofBool s.lines.mode ++ BitVec.ofBool s.lines.dtr : BitVec 32)

/-- A write of `CTRL` (R173): the three output fields. -/
def setLines (data : Word) (s : State) : State :=
  { s with lines :=
      { dtr := data.getLsbD 0
        mode := data.getLsbD 1
        auxOut := maskLow s.cfg.auxOutW (data.extractLsb' 2 6) } }

/-- `rts_o` (R135): at least `RTS_HEADROOM` entries of `rxq` are free. -/
def rtsLevel (s : State) : Bool := decide (s.cfg.rtsHeadroom ≤ s.cfg.rxFifoDepth - s.fifo.rxq.length)

/-- The bit-level serial output of R144, from the transmitter state after P4: start bit, eight data bits least
significant first, stop bit; 1 when no character is on the line. -/
def txdLevel (s : State) : Bool :=
  if s.tx.busy then
    match (s.cfg.frameCycles - 1 - s.tx.cnt) / s.cfg.baudCycles with
    | 0 => false
    | k + 1 => if k < 8 then s.tx.byte.getLsbD k else true
  else true

end Sys2Proof.Machine
end

