-- ==== Sys2Proof/WellFormed.lean ====
section
/-! DEFINITION. Which instructions carry operands the block accepts, for given parameters. An ill-formed
instruction still decodes: the block refuses its operand when it runs it (R95, R246). -/

namespace Sys2Proof

/-- R95: `1 <= LEN <= DBUF_BYTES`. -/
def lenFits (p : Params) (len : BitVec 16) : Bool :=
  decide (len ≠ 0) && decide (len.toNat ≤ p.dbufBytes)

/-- R266: a payload packet has at most `MAX_BLOCKS` blocks. -/
def blocksFit (p : Params) (sHi sLo : Byte) : Bool :=
  decide ((sHi ++ sLo : BitVec 16).toNat ≤ p.maxBlocks)

/-- The operand checks of R95 and R266. -/
def Instr.wellFormed (p : Params) : Instr → Bool
  | .nop => true
  | .flush => true
  | .resetUnit _ _ _ => true
  | .loadPlugin => true
  | .runPlugin => true
  | .readPacket => true
  | .getVersion len => lenFits p len
  | .read len => lenFits p len
  | .write len => lenFits p len
  | .imgClear => true
  | .versionQuery => true
  | .loadHdr => true
  | .runHdr => true
  | .pktEod _ _ => true
  | .pktPrg sHi sLo => blocksFit p sHi sLo
  | .pktChr sHi sLo => blocksFit p sHi sLo
  | .pktWram sHi sLo => blocksFit p sHi sLo
  | .pktReset _ _ => true
  | .rebootAnnounce _ _ => true

end Sys2Proof
end

