-- ==== Sys2Proof/Machine/Operands.lean ====
section
/-! DEFINITION. The operand forms: the length operand (R95), the patched image byte (R214), the buffer bytes, and
the registers of the host map (R62) with their read values, read side effects and write rules. -/

namespace Sys2Proof.Machine

/-! ### Command operands -/

/-- The decode action of a command with a length operand (R95, R153, R154, R291): refuse a length of 0 or above
`DBUF_BYTES` before any I/O, else latch it and go on. -/
def withLen (len : BitVec 16) (next : State → State) (s : State) : State :=
  if lenFits s.cfg len then next { s with latched.len := len } else raiseError .invalidParams s

/-- `DBUF[k]` as the source of a write (R154). -/
def dbufSource (k : Nat) (s : State) : Byte := memRead .dbuf k s

/-- `DBUF[k]` as the destination of a read (R153, R293). -/
def dbufDest (k : Nat) (b : Byte) (s : State) : State := memWrite .dbuf k b s

/-- One slot of the patch (R214) applied to the byte at `off`. -/
def patchSlot (p : Params) (k : Nat) (u : UserVar) (off : Nat) (b : Byte) : Byte :=
  let e := 1024 - (3 - k) * p.uvRecordSize
  if u.en then
    if off = e - 1 then u.value
    else if off = e - 2 ∧ p.uvFlagPolicy = .writeOne then 0x01
    else b
  else b

/-- `P(off)` (R214): the image byte sent at position `off`. -/
def patchedByte (off : Nat) (s : State) : Byte :=
  patchSlot s.cfg 3 s.host.uv[3] off (patchSlot s.cfg 2 s.host.uv[2] off
    (patchSlot s.cfg 1 s.host.uv[1] off (patchSlot s.cfg 0 s.host.uv[0] off (memRead .img off s))))

/-! ### The host register map (R62) -/

/-- The registers of R62; `reserved` stands for offsets 0x60 to 0xFC. -/
inductive Reg where
  | id
  | cmd
  | status
  | lastErr
  | timeout
  | ctrl
  | rbyte
  | rcount
  | pktType
  | pktBlocks
  | pktSize
  | pktCount
  | pktPtr
  | pktData
  | imgPtr
  | imgData
  | uv (k : Fin 4)
  | dbufPtr
  | dbufData
  | xferCount
  | rxLevel
  | reserved
deriving DecidableEq, Repr

/-- The register an address reaches: `addr[1:0]` is ignored (R61, R84). -/
def regAt (addr : BitVec 8) : Reg :=
  match (addr &&& 0xFC).toNat with
  | 0x00 => .id
  | 0x04 => .cmd
  | 0x08 => .status
  | 0x0C => .lastErr
  | 0x10 => .timeout
  | 0x14 => .ctrl
  | 0x18 => .rbyte
  | 0x1C => .rcount
  | 0x20 => .pktType
  | 0x24 => .pktBlocks
  | 0x28 => .pktSize
  | 0x2C => .pktCount
  | 0x30 => .pktPtr
  | 0x34 => .pktData
  | 0x38 => .imgPtr
  | 0x3C => .imgData
  | 0x40 => .uv 0
  | 0x44 => .uv 1
  | 0x48 => .uv 2
  | 0x4C => .uv 3
  | 0x50 => .dbufPtr
  | 0x54 => .dbufData
  | 0x58 => .xferCount
  | 0x5C => .rxLevel
  | _ => .reserved

/-- The register's address in the host's address map (R60). -/
def hostAddress (p : Params) (off : BitVec 8) : Nat := p.base + (off &&& 0xFC).toNat

/-- The identification constant "CNPF" (R64). -/
def idWord : Word := 0x434E5046

/-- A result view (R74): the value when a complete packet is held, else 0. -/
def gated {n : Nat} (s : State) (v : BitVec n) : Word := if s.status.pktValid then v.setWidth 32 else 0

/-- The byte a read of `PKT_DATA` returns (R76). -/
def pktDataByte (s : State) : Byte :=
  if s.status.pktValid ∧ s.host.pktPtr < s.work.size then memRead .pkt s.host.pktPtr.toNat s else 0

/-- `UVk` (R79). -/
def uvWord (u : UserVar) : Word := (0#23 ++ BitVec.ofBool u.en ++ u.value : BitVec 32)

/-- The value a read of a register returns (R62 to R82, R172). -/
def readReg (r : Reg) (s : State) : Word :=
  match r with
  | .id => idWord
  | .cmd => s.status.cmdLast
  | .status => statusWord s
  | .lastErr => s.status.lastErr.setWidth 32
  | .timeout => s.host.timeout
  | .ctrl => ctrlWord s
  | .rbyte => s.session.rbyte.setWidth 32
  | .rcount => s.session.rcount.setWidth 32
  | .pktType => gated s s.work.ftype
  | .pktBlocks => gated s s.work.blocks
  | .pktSize => gated s s.work.size
  | .pktCount => gated s s.work.i
  | .pktPtr => s.host.pktPtr.setWidth 32
  | .pktData => (pktDataByte s).setWidth 32
  | .imgPtr => s.host.imgPtr.setWidth 32
  | .imgData => (memRead .img s.host.imgPtr.toNat s).setWidth 32
  | .uv k => uvWord s.host.uv[k]
  | .dbufPtr => s.host.dbufPtr.setWidth 32
  | .dbufData => (memRead .dbuf s.host.dbufPtr.toNat s).setWidth 32
  | .xferCount => s.host.xferCount.setWidth 32
  | .rxLevel => (BitVec.ofNat 16 s.fifo.rxq.length).setWidth 32
  | .reserved => 0

/-- The side effect of a read (R76, R78, R81, R85): the data ports' pointers advance, each modulo its width. -/
def readEffect (r : Reg) (s : State) : State :=
  match r with
  | .pktData => { s with host.pktPtr := s.host.pktPtr + 1 }
  | .imgData => { s with host.imgPtr := s.host.imgPtr + 1 }
  | .dbufData => { s with host.dbufPtr := s.host.dbufPtr + 1 }
  | _ => s

/-- Issue (R67): accept a command word. -/
def issue (data : Word) (s : State) : State :=
  { s with
    status := { s.status with cmdLast := data, busy := true }
    engine := { s.engine with eng := .decode, ctx := .cmd } }

/-- A write of `IMG_DATA` (R78). -/
def writeImgData (v : Byte) (s : State) : State :=
  { memWrite .img s.host.imgPtr.toNat v s with
    host := { s.host with imgPtr := s.host.imgPtr + 1 }
    status := { s.status with pluginValid := false } }

/-- A write of `DBUF_DATA` (R81). -/
def writeDbufData (v : Byte) (s : State) : State :=
  { memWrite .dbuf s.host.dbufPtr.toNat v s with host := { s.host with dbufPtr := s.host.dbufPtr + 1 } }

/-- A write of `UVk` (R79). -/
def writeUv (k : Fin 4) (data : Word) (s : State) : State :=
  { s with host.uv := s.host.uv.set k { en := data.getLsbD 8, value := data.extractLsb' 0 8 } }

/-- The write rule of a register while idle (R62 to R82, R173); read-only and reserved registers ignore it. -/
def writeIdle (r : Reg) (data : Word) (s : State) : State :=
  match r with
  | .cmd => issue data s
  | .status => clearSticky data s
  | .timeout => { s with host.timeout := data }
  | .ctrl => setLines data s
  | .pktPtr => { s with host.pktPtr := data.extractLsb' 0 24 }
  | .imgPtr => { s with host.imgPtr := data.extractLsb' 0 10 }
  | .imgData => writeImgData (data.extractLsb' 0 8) s
  | .uv k => writeUv k data s
  | .dbufPtr => { s with host.dbufPtr := data.extractLsb' 0 16 }
  | .dbufData => writeDbufData (data.extractLsb' 0 8) s
  | _ => s

/-- A host write (R61, R66, R69): while busy only `STATUS` acts, every other write sets `CMD_REJ`. -/
def writeReg (r : Reg) (data : Word) (s : State) : State :=
  if s.status.busy then
    if r = .status then clearSticky data s else rejectWrite s
  else writeIdle r data s

end Sys2Proof.Machine
end

