-- ==== Sys2Proof/Machine/Channel.lean ====
section
/-! DEFINITION. The channel commands NOP, FLUSH, READ and WRITE (40_channel.md, section 3). A command's meaning is
the P3 rule of the command in progress (R9): its states after dispatch by name, and its decode action otherwise
(log 8). -/

namespace Sys2Proof.Machine

/-- NOP (R151): `complete()` in the dispatch step. -/
def execNop (s : State) : Host.Outcome State Fault Refusal := .next (complete s)

/-- FLUSH (R152): `FLUSH(); complete()` in the dispatch step. -/
def execFlush (s : State) : Host.Outcome State Fault Refusal := .next (complete (flushFifos s))

/-- The end of a command that moved `n` bytes: `XFER_COUNT <- n` (R153, R154, R294). -/
def setXfer (n : BitVec 16) (s : State) : State := { s with host.xferCount := n }

/-- A state that reads `len` bytes into `DBUF` and ends the command with however many arrived (R153, R293,
R294). -/
def readIntoDbuf (s : State) : State :=
  let o := logicalRead dbufDest s.latched.len.toNat s
  match o.result with
  | .pending => o.state
  | .done n => complete (setXfer (BitVec.ofNat 16 n) o.state)

/-- READ (R153). -/
def execRead (len : BitVec 16) (s : State) : Host.Outcome State Fault Refusal :=
  .next (match s.engine.eng with
    | .rrRead => readIntoDbuf s
    | _ => withLen len (gotoEng .rrRead) s)

/-- `RW_WRITE` (R154): `XFER_COUNT` takes `wr_sent` whether the write succeeds or fails. -/
def rwWrite (s : State) : State :=
  let w := logicalWrite dbufSource s.latched.len.toNat s
  match w.result with
  | .pending => w.state
  | .done => complete (setXfer w.state.wr.sent w.state)
  | .failed => raiseError .writeError (setXfer w.state.wr.sent w.state)

/-- WRITE (R154). -/
def execWrite (len : BitVec 16) (s : State) : Host.Outcome State Fault Refusal :=
  .next (match s.engine.eng with
    | .rwWrite => rwWrite s
    | _ => withLen len (gotoEng .rwWrite) s)

end Sys2Proof.Machine
end

