-- ==== Sys2Proof/Machine/Wire.lean ====
section
/-! DEFINITION. The wire codes: what the engine does to send VERSION_QUERY, LOAD_HDR and RUN_HDR (R292, R218,
R224), and what the framer does with a packet header and a reboot announcement (R246, R248, R259). -/

namespace Sys2Proof.Machine

/-! ### Block to unit -/

/-- `VP_SEND` (R292). -/
def vpSend (s : State) : State :=
  sendThen (constBytes versionQueryBytes) 1 .commandSend (gotoEng .vpRead) s

/-- VERSION_QUERY (R101, R292). -/
def execVersionQuery (s : State) : Host.Outcome State Fault Refusal := .next (vpSend s)

/-- `LD_HDR` (R218). -/
def ldHdr (s : State) : State :=
  sendThen (constBytes loadHdrBytes) 5 .commandSend (gotoEng .ldPay) s

/-- LOAD_HDR (R102, R218). -/
def execLoadHdr (s : State) : Host.Outcome State Fault Refusal := .next (ldHdr s)

/-- After the run header: the command ends, or recovery waits (R224). -/
def rnDone (s : State) : State := if s.engine.ctx = .cmd then complete s else gotoEng .recWait s

/-- `RN_HDR` (R224). -/
def rnHdr (s : State) : State := sendThen (constBytes runHdrBytes) 5 .commandSend rnDone s

/-- RUN_HDR (R103, R224). -/
def execRunHdr (s : State) : Host.Outcome State Fault Refusal := .next (rnHdr s)

/-! ### Unit to block -/

/-- `blocks` of a size field (R107). -/
def sizeField (sHi sLo : Byte) : BitVec 16 := sHi ++ sLo

/-- `size = blocks << 8` in 24 bits (R107, R244). -/
def packetSize (blocks : BitVec 16) : BitVec 24 := blocks ++ 0#8

/-- The registers a packet header fills (R244, R245): in a run `blocks` and `size` already hold these values
(log 9). -/
def headerRegs (sHi sLo t : Byte) (s : State) : State :=
  { s with work := { s.work with
      blocks := sizeField sHi sLo, size := packetSize (sizeField sHi sLo), ftype := t } }

/-- The dispatch of a payload type (R246). -/
def payloadHeader (s : State) : State :=
  if s.work.size = 0 then gotoFs .endState s
  else if s.cfg.maxBlocks < s.work.blocks.toNat then raiseError .oversize s
  else gotoFs .readData s

/-- The dispatch of end-of-data (R246). -/
def eodHeader (s : State) : State := gotoFs .endState s

/-- The dispatch of a RESET packet (R248). -/
def resetHeader (s : State) : State :=
  gotoFs .endState { s with session.rbyte := s.work.blocks / 4 }

/-- PKT_EOD (R246). -/
def execPktEod (sHi sLo : Byte) (s : State) : Host.Outcome State Fault Refusal :=
  .next (eodHeader (headerRegs sHi sLo 0 s))

/-- PKT_PRG (R246). -/
def execPktPrg (sHi sLo : Byte) (s : State) : Host.Outcome State Fault Refusal :=
  .next (payloadHeader (headerRegs sHi sLo 1 s))

/-- PKT_CHR (R246). -/
def execPktChr (sHi sLo : Byte) (s : State) : Host.Outcome State Fault Refusal :=
  .next (payloadHeader (headerRegs sHi sLo 2 s))

/-- PKT_WRAM (R246). -/
def execPktWram (sHi sLo : Byte) (s : State) : Host.Outcome State Fault Refusal :=
  .next (payloadHeader (headerRegs sHi sLo 3 s))

/-- PKT_RESET (R248). -/
def execPktReset (sHi sLo : Byte) (s : State) : Host.Outcome State Fault Refusal :=
  .next (resetHeader (headerRegs sHi sLo 4 s))

/-- The announcement's threshold (R111, R259). -/
def announced (aHi aLo : Byte) (s : State) : State :=
  gotoFs .readData { s with session.rbyte := (aHi ++ aLo : BitVec 16) / 4 }

/-- REBOOT_ANNOUNCE (R259). -/
def execRebootAnnounce (aHi aLo : Byte) (s : State) : Host.Outcome State Fault Refusal :=
  .next (announced aHi aLo s)

end Sys2Proof.Machine
end

