-- ==== Sys2Proof/Machine/Plugin.lean ====
section
/-! DEFINITION. The plugin commands IMG_CLEAR, LOAD_PLUGIN and RUN_PLUGIN (43_plugin_loader.md). -/

namespace Sys2Proof.Machine

/-- The clear of R212: every byte of `IMG`, its pointer and the held identity. -/
def clearImage (s : State) : State :=
  { s with mem.img := [], host.imgPtr := 0, status.pluginValid := false }

/-- IMG_CLEAR (R212). -/
def execImgClear (s : State) : Host.Outcome State Fault Refusal := .next (complete (clearImage s))

/-- `LD_PAY` (R219): the 1024 patched bytes in index order. -/
def ldPay (s : State) : State := sendThen patchedByte 1024 .blockSend (gotoEng .ldFinish) s

/-- `LD_FINISH` (R220). -/
def ldFinish (s : State) : State :=
  if s.engine.ctx = .cmd then complete { s with status.pluginValid := true }
  else gotoEng .rnClear { s with status.pluginValid := true }

/-- LOAD_PLUGIN (R217). -/
def execLoadPlugin (s : State) : Host.Outcome State Fault Refusal :=
  .next (match s.engine.eng with
    | .ldHdr => ldHdr s
    | .ldPay => ldPay s
    | .ldFinish => ldFinish s
    | _ => gotoEng .ldHdr s)

/-- `RN_CLEAR` (R223). -/
def rnClear (s : State) : State :=
  { s with session := { rbyte := 0, rcount := 0 }, engine.eng := .rnHdr }

/-- RUN_PLUGIN (R222). -/
def execRunPlugin (s : State) : Host.Outcome State Fault Refusal :=
  .next (match s.engine.eng with
    | .rnClear => rnClear s
    | .rnHdr => rnHdr s
    | _ => gotoEng .rnClear s)

end Sys2Proof.Machine
end

