-- ==== Sys2Proof/Machine/ResetSeq.lean ====
section
/-! DEFINITION. The reset sequencer (42_reset_sequencer.md): the `RS_*` states and RESET_UNIT. -/

namespace Sys2Proof.Machine

/-- `RS_MODE` (R192): the mode line is written; NORESET skips the pulse. -/
def rsMode (s : State) : State :=
  { s with
    lines.mode := !s.latched.rmode.getLsbD 0
    engine.eng := if s.latched.rmode.getLsbD 1 then .rsFinish else .rsAssert }

/-- `RS_ASSERT` (R193): drop the reset line. -/
def rsAssert (s : State) : State := { s with lines.dtr := false, engine.eng := .rsHold1 }

/-- `RS_HOLD1` (R194). -/
def rsHold1 (s : State) : State := waitThen s.cfg.shortDelay (gotoEng .rsDeassert) s

/-- `RS_DEASSERT` (R195): raise the reset line. -/
def rsDeassert (s : State) : State := { s with lines.dtr := true, engine.eng := .rsHold2 }

/-- `RS_HOLD2` (R196). -/
def rsHold2 (s : State) : State := waitThen s.cfg.shortDelay (gotoEng .rsFinish) s

/-- `RS_FINISH` (R197): flush, then end the command or go on with recovery. -/
def rsFinish (s : State) : State :=
  if s.engine.ctx = .cmd then complete (flushFifos s) else gotoEng .recCheck (flushFifos s)

/-- The mode operand as `rmode` holds it (R46, R94): bit 0 PLAYMODE, bit 1 NORESET, bit 2 ALTPORT. -/
def modeBits (playmode noreset altport : Bool) : BitVec 3 :=
  (BitVec.ofBool altport ++ BitVec.ofBool noreset ++ BitVec.ofBool playmode : BitVec 3)

/-- RESET_UNIT (R190, R191). ALTPORT is latched and no rule reads it (R201). -/
def execResetUnit (playmode noreset altport : Bool) (s : State) : Host.Outcome State Fault Refusal :=
  .next (match s.engine.eng with
    | .rsMode => rsMode s
    | .rsAssert => rsAssert s
    | .rsHold1 => rsHold1 s
    | .rsDeassert => rsDeassert s
    | .rsHold2 => rsHold2 s
    | .rsFinish => rsFinish s
    | _ => gotoEng .rsMode { s with latched.rmode := modeBits playmode noreset altport })

end Sys2Proof.Machine
end

