-- ==== Sys2Proof/Machine/Framer.lean ====
section
/-! DEFINITION. The packet framer and mid-stream recovery (44_packet_engine.md): READ_PACKET. -/

namespace Sys2Proof.Machine

/-- `Start` (R242). -/
def fsStart (s : State) : State :=
  { s with work := { hb := 0, blocks := 0, size := 0, i := 0, j := 0, ftype := 0 }, engine.fs := .readSizeHigh }

/-- `ReadSizeHigh` (R243). -/
def fsReadSizeHigh (s : State) : State :=
  readOneByte (fun b t => gotoFs .readSizeLow { t with work.hb := b }) s

/-- `ReadSizeLow` (R244). -/
def fsReadSizeLow (s : State) : State :=
  readOneByte (fun lb t => gotoFs .readFormat { t with
    work.blocks := sizeField t.work.hb lb, work.size := packetSize (sizeField t.work.hb lb) }) s

/-- The size bytes the framer has latched, as the header's first two bytes (R106). -/
def latchedHi (s : State) : Byte := s.work.blocks.extractLsb' 8 8

/-- See `latchedHi`. -/
def latchedLo (s : State) : Byte := s.work.blocks.extractLsb' 0 8

/-- The `ReadFormat` dispatch (R246): the decoded header's action, or BadTypeError (R247). -/
def dispatchType (t : Byte) (s : State) : State :=
  match pktKind t with
  | some .eod => eodHeader (headerRegs (latchedHi s) (latchedLo s) t s)
  | some .prg => payloadHeader (headerRegs (latchedHi s) (latchedLo s) t s)
  | some .chr => payloadHeader (headerRegs (latchedHi s) (latchedLo s) t s)
  | some .wram => payloadHeader (headerRegs (latchedHi s) (latchedLo s) t s)
  | some .reset => resetHeader (headerRegs (latchedHi s) (latchedLo s) t s)
  | none => raiseError .badType { s with work.ftype := t }

/-- `ReadFormat` (R245, R246). -/
def fsReadFormat (s : State) : State := readOneByte dispatchType s

/-- Bytes left in the current chunk (R250). -/
def subReadLength (s : State) : Nat := min 1024 (s.work.size.toNat - s.work.i.toNat) - s.work.j.toNat

/-- `PKT_MEM[i + j + k]` as the destination of a sub-read (R250). -/
def pktDest (k : Nat) (b : Byte) (s : State) : State :=
  memWrite .pkt (s.work.i.toNat + s.work.j.toNat + k) b s

/-- R251: whether a sub-read of `r` bytes that got `n` fails. -/
def subReadFails (p : Params) (n r : Nat) : Bool :=
  decide (n = 0) || (decide (n < r) && decide (p.chunkReadPolicy = .failOnShort))

/-- A full chunk (R252). -/
def fullChunk (s : State) : State :=
  let t := { s with work.i := s.work.i + 1024, work.j := 0 }
  if s.session.rbyte ≠ 0 then gotoFs .doReset t
  else if t.work.i = t.work.size then gotoFs .endState t
  else t

/-- Sub-read accounting (R252, R253). -/
def account (n : Nat) (s : State) : State :=
  let j := s.work.j.toNat + n
  if j = 1024 then fullChunk s
  else if s.work.i.toNat + j = s.work.size.toNat then
    gotoFs .endState { s with work.i := s.work.i + BitVec.ofNat 24 j, work.j := 0 }
  else { s with work.j := BitVec.ofNat 11 j }

/-- A `ReadData` step inside a sub-read (R250 to R252). -/
def subRead (s : State) : State :=
  let o := logicalRead pktDest (subReadLength s) s
  match o.result with
  | .pending => o.state
  | .done n =>
    if subReadFails s.cfg n (subReadLength s) then raiseError .dataRead o.state else account n o.state

/-- `ReadData` (R249, R250): the entry test when no sub-read is in progress, else the sub-read. -/
def fsReadData (s : State) : State :=
  if s.rd.act = false ∧ s.work.i.toNat + s.work.j.toNat = s.work.size.toNat then gotoFs .endState s
  else subRead s

/-- `DoReset` (R254): count the chunk; start recovery when the threshold is reached. -/
def fsDoReset (s : State) : State :=
  if s.session.rbyte ≤ s.session.rcount + 1 then
    { s with session.rcount := s.session.rcount + 1, latched.rmode := 0, engine.ctx := .recovery, engine.eng := .rsMode }
  else { s with session.rcount := s.session.rcount + 1, engine.fs := .readData }

/-- `ReadRebootByteHigh` (R258). -/
def fsReadRebootByteHigh (s : State) : State :=
  readOneByte (fun b t => gotoFs .readRebootByteLow { t with work.hb := b }) s

/-- `ReadRebootByteLow` (R259). -/
def fsReadRebootByteLow (s : State) : State :=
  readOneByte (fun lb t => announced t.work.hb lb t) s

/-- `End` (R260). -/
def fsEnd (s : State) : State := complete (gotoFs .idle { s with status.pktValid := true })

/-- `eng = PK`: the rule of the framer state (R240). No rule gives `Idle` a step (log 10). -/
def framerStep (s : State) : Host.Outcome State Fault Refusal :=
  match s.engine.fs with
  | .idle => .fault .framerIdle
  | .start => .next (fsStart s)
  | .readSizeHigh => .next (fsReadSizeHigh s)
  | .readSizeLow => .next (fsReadSizeLow s)
  | .readFormat => .next (fsReadFormat s)
  | .readData => .next (fsReadData s)
  | .doReset => .next (fsDoReset s)
  | .readRebootByteHigh => .next (fsReadRebootByteHigh s)
  | .readRebootByteLow => .next (fsReadRebootByteLow s)
  | .endState => .next (fsEnd s)

/-- `REC_CHECK` (R256). -/
def recCheck (s : State) : State :=
  if s.status.pluginValid then gotoEng .ldHdr s else raiseError .pluginOpen s

/-- Back to the framer after `LONG_DELAY` (R257). -/
def recDone (s : State) : State := { s with engine := { eng := .pk, ctx := .cmd, fs := .readRebootByteHigh } }

/-- `REC_WAIT` (R257). -/
def recWait (s : State) : State := waitThen s.cfg.longDelay recDone s

/-- The decode action of READ_PACKET (R241). -/
def readPacketDecode (s : State) : State :=
  { s with status.pktValid := false, engine.fs := .start, engine.eng := .pk }

/-- READ_PACKET (R240): the framer, and the recovery states of R255. -/
def execReadPacket (s : State) : Host.Outcome State Fault Refusal :=
  match s.engine.eng with
  | .pk => framerStep s
  | .rsMode => .next (rsMode s)
  | .rsAssert => .next (rsAssert s)
  | .rsHold1 => .next (rsHold1 s)
  | .rsDeassert => .next (rsDeassert s)
  | .rsHold2 => .next (rsHold2 s)
  | .rsFinish => .next (rsFinish s)
  | .recCheck => .next (recCheck s)
  | .ldHdr => .next (ldHdr s)
  | .ldPay => .next (ldPay s)
  | .ldFinish => .next (ldFinish s)
  | .rnClear => .next (rnClear s)
  | .rnHdr => .next (rnHdr s)
  | .recWait => .next (recWait s)
  | _ => .next (readPacketDecode s)

end Sys2Proof.Machine
end

