-- ==== Sys2Proof/Machine/Version.lean ====
section
/-! DEFINITION. The version probe GET_VERSION (45_version_probe.md). -/

namespace Sys2Proof.Machine

/-- GET_VERSION (R290): check and flush at dispatch (R291), send the query (R292), one bounded read (R293). -/
def execGetVersion (len : BitVec 16) (s : State) : Host.Outcome State Fault Refusal :=
  .next (match s.engine.eng with
    | .vpSend => vpSend s
    | .vpRead => readIntoDbuf s
    | _ => withLen len (fun t => gotoEng .vpSend (flushFifos t)) s)

end Sys2Proof.Machine
end

