-- ==== Sys2Proof/Machine/Dispatch.lean ====
section
/-! DEFINITION. The meaning of each instruction, one arm per row of the opcode table. -/

namespace Sys2Proof.Machine

def exec (i : Instr) (s : State) : Host.Outcome State Fault Refusal :=
  match i with
  | .nop => Sys2Proof.Machine.execNop s
  | .flush => Sys2Proof.Machine.execFlush s
  | .resetUnit playmode noreset altport => Sys2Proof.Machine.execResetUnit playmode noreset altport s
  | .loadPlugin => Sys2Proof.Machine.execLoadPlugin s
  | .runPlugin => Sys2Proof.Machine.execRunPlugin s
  | .readPacket => Sys2Proof.Machine.execReadPacket s
  | .getVersion len => Sys2Proof.Machine.execGetVersion len s
  | .read len => Sys2Proof.Machine.execRead len s
  | .write len => Sys2Proof.Machine.execWrite len s
  | .imgClear => Sys2Proof.Machine.execImgClear s
  | .versionQuery => Sys2Proof.Machine.execVersionQuery s
  | .loadHdr => Sys2Proof.Machine.execLoadHdr s
  | .runHdr => Sys2Proof.Machine.execRunHdr s
  | .pktEod sHi sLo => Sys2Proof.Machine.execPktEod sHi sLo s
  | .pktPrg sHi sLo => Sys2Proof.Machine.execPktPrg sHi sLo s
  | .pktChr sHi sLo => Sys2Proof.Machine.execPktChr sHi sLo s
  | .pktWram sHi sLo => Sys2Proof.Machine.execPktWram sHi sLo s
  | .pktReset sHi sLo => Sys2Proof.Machine.execPktReset sHi sLo s
  | .rebootAnnounce aHi aLo => Sys2Proof.Machine.execRebootAnnounce aHi aLo s

end Sys2Proof.Machine
end

