-- ==== Sys2Proof/Machine/Uart.lean ====
section
/-! DEFINITION. The bit-level receiver of R143, the optional refinement of `rx_ev`. (The bit-level transmitter of
R144 is `txdLevel` in Machine/Flags.lean.) -/

namespace Sys2Proof.Machine

/-- The phase after a sample point that is `n` steps away, `n` at least 1. -/
def stepsBefore (n : Nat) : Nat := n - 1

/-- The start bit: `BAUD_CYCLES div 2` steps after the 1-to-0 transition the line is sampled; at distance 0 the
sample is the transition's own 0. -/
def beginCharacter (baud : Nat) : RxPhase :=
  if baud / 2 = 0 then .data 0 (stepsBefore baud) 0 else .start (stepsBefore (baud / 2))

/-- One step of the receiver on the synchronised line level: the next phase, and the event to deliver in the next
step. -/
def bitRxNext (baud : Nat) (line : Bool) (ph : RxPhase) : RxPhase × RxEvent :=
  match ph with
  | .waitHigh => (if line then .idle else .waitHigh, .none)
  | .idle => (if line then .idle else beginCharacter baud, .none)
  | .start (k + 1) => (.start k, .none)
  | .start 0 => (if line then .idle else .data 0 (stepsBefore baud) 0, .none)
  | .data got (k + 1) sh => (.data got k sh, .none)
  | .data got 0 sh =>
    let sh' : BitVec 8 := BitVec.ofBool line ++ sh.extractLsb' 1 7
    (if got = 7 then .stop (stepsBefore baud) sh' else .data (got + 1) (stepsBefore baud) sh', .none)
  | .stop (k + 1) sh => (.stop k sh, .none)
  | .stop 0 sh => if line then (.idle, .byte sh) else (.waitHigh, .ferr)

/-- The receiver clocked with `rxd_i` at `level` (R143): it reads the second synchroniser stage. -/
def bitRxStep (baud : Nat) (level : Bool) (u : BitRx) : BitRx :=
  let n := bitRxNext baud u.s2 u.phase
  { s1 := level, s2 := u.s1, phase := n.1, pending := n.2 }

/-- The event P2 sees, and the bit-level receiver after the step. A byte-level event leaves the bit-level receiver
as it is (log 15). -/
def rxFront (baud : Nat) (p : RxPort) (u : BitRx) : RxEvent × BitRx :=
  match p with
  | .event e => (e, u)
  | .line level => (u.pending, bitRxStep baud level u)

end Sys2Proof.Machine
end

