-- ==== Sys2Proof/Machine/Phases.lean ====
section
/-! DEFINITION. The phases of a step but for P3 (R9): P1 host bus access, P2 receiver push, P4 transmitter, P5
timebase and synchronisers; and the reset step (R340). -/

namespace Sys2Proof.Machine

/-- The inputs of the coming step: the head of the schedule, or a free value where it gives none (R13, log 2). -/
def nextInput (s : State) : Inputs :=
  match s.env with
  | i :: _ => i
  | [] => Config.envInput s.draws

/-- The schedule with the coming step's inputs taken, and the step counted: `draws` is the index of a step's free
values (log 2). -/
def takeInput (s : State) : State := { s with env := s.env.tail, draws := s.draws + 1 }

/-- The ports a step drives from the state at its start (R135, R174), no read and no character yet. -/
def portsAtStart (s : State) : Outputs :=
  { rdata := none, txEv := none, dtrO := s.lines.dtr, modeO := s.lines.mode, rtsO := rtsLevel s,
    auxO := maskLow s.cfg.auxOutW s.lines.auxOut, txdO := true }

/-- The start of a step: the inputs are taken, the registered outputs driven. -/
def beginStep (s : State) : State := { takeInput s with out := portsAtStart s }

/-! ### P1 -/

/-- P1 (R61): a read returns the value at the start of the step and then has its side effect; a write applies the
write rule. -/
def phase1 (b : Bus) (s : State) : State :=
  match b with
  | .none => s
  | .read addr => readEffect (regAt addr) { s with out.rdata := some (readReg (regAt addr) s) }
  | .write addr data => writeReg (regAt addr) data s

/-! ### P2 -/

/-- The push of R131 to R134. -/
def receive (e : RxEvent) (s : State) : State :=
  match e with
  | .none => s
  | .byte b =>
    if s.fifo.rxq.length < s.cfg.rxFifoDepth then { s with fifo.rxq := s.fifo.rxq ++ [b] }
    else { s with status.rxOvr := true }
  | .ferr => { s with status.rxFerr := true }

/-- P2 (R131), with the bit-level receiver in front of it (R143). -/
def phase2 (p : RxPort) (s : State) : State :=
  let f := rxFront s.cfg.baudCycles p s.bitRx
  receive f.1 { s with bitRx := f.2 }

/-! ### P4 -/

/-- The character on the line advances (R137). -/
def advanceChar (s : State) : State :=
  if s.tx.busy then
    if s.tx.cnt = 0 then { s with tx.busy := false } else { s with tx.cnt := s.tx.cnt - 1 }
  else s

/-- A new character starts when the line is free, a byte waits and CTS is asserted (R137, R138); it counts for the
write in progress. -/
def startChar (s : State) : State :=
  match s.fifo.txq with
  | [] => s
  | b :: q =>
    if s.tx.busy = false ∧ s.sync.cts2 = true then
      let t := { s with
        fifo.txq := q
        tx := { busy := true, cnt := s.cfg.frameCycles - 1, byte := b }
        out.txEv := some b }
      if s.wr.act then { t with wr.sent := s.wr.sent + 1, wr.stall := s.cfg.writeStall } else t
    else s

/-- The bit-level output of the step (R144). -/
def driveTxd (s : State) : State := { s with out.txdO := txdLevel s }

/-- P4 (R137). -/
def phase4 (s : State) : State := driveTxd (startChar (advanceChar s))

/-! ### P5 -/

/-- What the second stage of a line's synchroniser takes: the first stage's level (R142), unless that level was a
pulse of one step (the line is at another level now) that was not captured (R181): then the second stage stays as it
is. No rule reads the first stage, so a pulse is dropped where it is first known to be one (log 13). -/
def secondStage (captured level first second : Bool) : Bool :=
  if first == level || captured then first else second

/-- `secondStage` on every line of a port. -/
def secondStages {n : Nat} (captured level first second : BitVec n) : BitVec n :=
  let taken := ~~~(first ^^^ level) ||| captured
  (first &&& taken) ||| (second &&& ~~~taken)

/-- The synchronisers' step (R142) on a step's inputs, with the fate of the pulses that end in it (R181). -/
def syncStep (p : Params) (c : Capture) (i : Inputs) (y : Sync) : Sync :=
  { cts1 := i.cts, cts2 := secondStage c.cts i.cts y.cts1 y.cts2
    ps1 := i.psense, ps2 := secondStage c.psense i.psense y.ps1 y.ps2
    aux1 := maskLow p.auxInW i.aux, aux2 := secondStages c.aux (maskLow p.auxInW i.aux) y.aux1 y.aux2 }

/-- P5 (R141, R142). -/
def phase5 (i : Inputs) (s : State) : State :=
  { s with
    tickCnt := (s.tickCnt + 1) % s.cfg.tickCycles
    sync := syncStep s.cfg (Config.pulseCapture s.draws) i s.sync }

/-! ### Reset -/

/-- The `rdata` of a step with `rst` = 1 (R340): a read returns 0. -/
def resetRdata (b : Bus) : Option Word :=
  match b with
  | .read _ => some 0
  | _ => none

/-- A step with `rst` = 1 (R340): every element takes its reset value and no phase acts. The schedule goes on, and
the memories' free contents are drawn anew (log 4). The registered ports still show the state at the start of the
step (log 12); `txd_o` returns to 1 at once (R344). -/
def resetStep (i : Inputs) (s : State) : State :=
  { State.resetWith s.cfg with
    env := (takeInput s).env
    draws := (takeInput s).draws
    epoch := s.epoch + 1
    out := { portsAtStart s with rdata := resetRdata i.bus } }

end Sys2Proof.Machine
end

