-- ==== Sys2Proof/Machine/Clock.lean ====
section
/-! DEFINITION. One clock step of the block (R8, R9), and where an encoded instruction stands so that the next step
runs it. -/

namespace Sys2Proof.Machine

/-- P3 (R9): nothing while idle; else the command in progress, decoded from `CMD_LAST`, runs the rule of its engine
state. A word that is no command is refused with InvalidParamsError (R92, R93, R96). -/
def phase3 (s : State) : Host.Outcome State Fault Refusal :=
  if s.engine.eng = .idle then .next s
  else
    match decodeCommand s.status.cmdLast with
    | .ok i => exec i s
    | .error _ => .next (raiseError .invalidParams s)

/-- The state P3 sees: after the bus access and the receiver push. -/
def beforeEngine (s : State) : State :=
  phase2 (nextInput s).rx (phase1 (nextInput s).bus (beginStep s))

/-- What follows the engine in a step: P4 and P5. -/
def afterEngine (i : Inputs) (s : State) : State := phase5 i (phase4 s)

/-- What follows an engine outcome. -/
def finishStep (i : Inputs) (o : Host.Outcome State Fault Refusal) : Host.Outcome State Fault Refusal :=
  match o with
  | .next t => .next (afterEngine i t)
  | .fault f => .fault f
  | .refused r => .refused r

/-- One rising edge of `clk` (R8): `rst` overrides everything (R340), else P1 to P5 in order (R9). -/
def clockStep (s : State) : Host.Outcome State Fault Refusal :=
  if (nextInput s).rst then .next (resetStep (nextInput s) s)
  else finishStep (nextInput s) (phase3 (beforeEngine s))

/-! ### Placing an encoded instruction (log 6) -/

/-- The inputs the coming step is given: those the schedule has, or a quiet step, without a reset. -/
def fetchInput (s : State) : Inputs :=
  match s.env with
  | i :: _ => { i with rst := false }
  | [] => Inputs.quiet

/-- The state with `i` as the coming step's inputs. -/
def withInput (i : Inputs) (s : State) : State := { s with env := i :: s.env.tail }

/-- A command in progress in a given engine state. -/
def inProgress (w : Word) (e : Engine) (s : State) : State :=
  { withInput (fetchInput s) s with status := { s.status with busy := true, cmdLast := w }, engine := e }

/-- A code the block sends: the command whose engine state sends it is in progress, at the start of the write. -/
def placeTx (i : Instr) (s : State) : State :=
  match i with
  | .versionQuery =>
    { inProgress 0x00010006 { eng := .vpSend, ctx := .cmd, fs := .idle } s with wr := { s.wr with act := false } }
  | .loadHdr =>
    { inProgress 0x00000003 { eng := .ldHdr, ctx := .cmd, fs := .idle } s with wr := { s.wr with act := false } }
  | .runHdr =>
    { inProgress 0x00000004 { eng := .rnHdr, ctx := .cmd, fs := .idle } s with wr := { s.wr with act := false } }
  | _ => s

/-- Where a code stands so that the next step runs it: a command word is the host's next write of `CMD` to the idle
block; a packet header or an announcement is in the framer's registers but for its last byte, which is next in
`rxq`; a code the block sends is the one its engine state is about to send. -/
def placeCode (c : Code) (s : State) : State :=
  match c with
  | .cmd w =>
    { withInput { fetchInput s with bus := .write 0x04 w } s with status := { s.status with busy := false } }
  | .tx bytes =>
    match decodeTx bytes with
    | .ok i => placeTx i s
    | .error _ => s
  | .header sHi sLo t =>
    { inProgress 0x00000005 { eng := .pk, ctx := .cmd, fs := .readFormat } s with
      work := { s.work with blocks := sizeField sHi sLo, size := packetSize (sizeField sHi sLo) }
      rd := { s.rd with act := false }
      fifo := { s.fifo with rxq := t :: s.fifo.rxq } }
  | .announce aHi aLo =>
    { inProgress 0x00000005 { eng := .pk, ctx := .cmd, fs := .readRebootByteLow } s with
      work := { s.work with hb := aHi }
      rd := { s.rd with act := false }
      fifo := { s.fifo with rxq := aLo :: s.fifo.rxq } }

end Sys2Proof.Machine
end

