-- ==== Sys2Proof/Machine/Step.lean ====
section
/-! DEFINITION. The step, and the placing of an instruction where the step fetches it. -/

namespace Sys2Proof.Machine

/-- One step: one rising edge of `clk` (R8, R9). -/
def step (s : State) : Host.Outcome State Fault Refusal := clockStep s

/-- The state with the instruction of table word `w` where the next step fetches it (log 6, 7). -/
def State.withFetchWord (s : State) (nbits w : Nat) : State := placeCode (codeOfTableWord nbits w) s

end Sys2Proof.Machine
end

