-- ==== Sys2Proof/Machine/HostProgram.lean ====
section
/-! DEFINITION. Host programs (R99) as data, the pseudo-instructions of R100 as expansions, and how a host runs one
against the block: one bus access a step. Nothing in the machine depends on this file. -/

namespace Sys2Proof.Machine

/-- A host statement (R99). -/
inductive HostStmt where
  | wr (off : BitVec 8) (value : Word)
  | rd (off : BitVec 8)
  | cmd (i : Instr)
  | idle (n : Nat)
deriving DecidableEq, Repr

/-- The bus accesses of a statement, one a step (R99). `cmd` of an instruction that is no host command is none. -/
def HostStmt.accesses : HostStmt → List Bus
  | .wr off v => [.write off v]
  | .rd off => [.read off]
  | .cmd i =>
    match encode i with
    | .cmd w => [.write 0x04 w]
    | _ => []
  | .idle n => List.replicate n .none

/-- `clear_flags` (R100). -/
def clearFlags : List HostStmt := [.wr 0x08 0x70]

/-- `read_pkt_byte` (R100). -/
def readPktByte : List HostStmt := [.rd 0x34]

/-- `uv k, en, val` (R100). -/
def uvStmt (k : Fin 4) (en : Bool) (value : Byte) : List HostStmt :=
  [.wr (0x40 + 4 * BitVec.ofNat 8 k.val) (0#23 ++ BitVec.ofBool en ++ value : BitVec 32)]

/-- The word `set_lines mask, bits` writes after its read of `CTRL` gave `v` (R100). -/
def setLinesWord (mask bits v : Word) : Word := (v &&& ~~~mask) ||| (bits &&& mask)

/-- The writes of `load_image` after `do IMG_CLEAR` (R100): the pointer, then the bytes. -/
def loadImageWrites (bytes : List Byte) : List HostStmt :=
  .wr 0x38 0 :: bytes.map (fun b => .wr 0x3C (b.setWidth 32))

/-- The state whose coming step has the bus access `b`, its other inputs as they were. -/
def withBus (b : Bus) (s : State) : State := withInput { nextInput s with bus := b } s

/-- Run one access a step. -/
def runAccesses : List Bus → State → Host.Outcome State Fault Refusal
  | [], s => .next s
  | b :: rest, s =>
    match step (withBus b s) with
    | .next t => runAccesses rest t
    | .fault f => .fault f
    | .refused r => .refused r

/-- `wait_idle` (R100): read `STATUS` until bit 0 of the value read is 0, at most `fuel` times. -/
def waitIdle : Nat → State → Host.Outcome State Fault Refusal
  | 0, s => .next s
  | fuel + 1, s =>
    match step (withBus (.read 0x08) s) with
    | .next t =>
      match t.out.rdata with
      | some v => if v.getLsbD 0 then waitIdle fuel t else .next t
      | none => waitIdle fuel t
    | .fault f => .fault f
    | .refused r => .refused r

/-- `do MNEMONIC operand` (R100). -/
def doCommand (fuel : Nat) (i : Instr) (s : State) : Host.Outcome State Fault Refusal :=
  match runAccesses (HostStmt.accesses (.cmd i)) s with
  | .next t => waitIdle fuel t
  | .fault f => .fault f
  | .refused r => .refused r

end Sys2Proof.Machine
end

