-- ==== Sys2Proof/Safety.lean ====
section
/-! DEFINITION. What a good state is: the invariants the spec states or derives of the block, in the terms claims
use. A run is safe when every step answers a next state (the block never stops, R327). -/

namespace Sys2Proof.Machine

/-- The outcome is a next state. -/
def answers (o : Host.Outcome State Fault Refusal) : Prop := ∃ t, o = .next t

/-- Every block memory is in canonical form. -/
def memoryCanonical (s : State) : Prop := s.mem.wf s.cfg = true

/-- R57: the FIFOs hold at most their depths. -/
def fifosBounded (s : State) : Prop :=
  s.fifo.rxq.length ≤ s.cfg.rxFifoDepth ∧ s.fifo.txq.length ≤ s.cfg.txFifoDepth

/-- R34: `rbyte` never exceeds 16383. -/
def thresholdBounded (s : State) : Prop := s.session.rbyte.toNat ≤ 16383

/-- R265: no packet is held while READ_PACKET is in progress. -/
def packetHidden (s : State) : Prop :=
  s.engine.eng ≠ .idle → decodeCommand s.status.cmdLast = .ok .readPacket → s.status.pktValid = false

/-- The states of the reset sequence (R192 to R197). -/
def isResetState (e : Eng) : Bool :=
  [Eng.rsMode, .rsAssert, .rsHold1, .rsDeassert, .rsHold2, .rsFinish].contains e

/-- The states that recovery runs (R255). -/
def isRecoveryState (e : Eng) : Bool :=
  isResetState e || [Eng.recCheck, .ldHdr, .ldPay, .ldFinish, .rnClear, .rnHdr, .recWait].contains e

/-- The states a command passes through after its dispatch step, for itself (`ctx` = CMD) or in recovery. -/
def ownState (i : Instr) (c : Ctx) (e : Eng) : Bool :=
  match i, c with
  | .resetUnit _ _ _, .cmd => isResetState e
  | .loadPlugin, .cmd => [Eng.ldHdr, .ldPay, .ldFinish].contains e
  | .runPlugin, .cmd => [Eng.rnClear, .rnHdr].contains e
  | .readPacket, .cmd => decide (e = .pk)
  | .readPacket, .recovery => isRecoveryState e
  | .getVersion _, .cmd => [Eng.vpSend, .vpRead].contains e
  | .read _, .cmd => decide (e = .rrRead)
  | .write _, .cmd => decide (e = .rwWrite)
  | _, _ => false

/-- R36, R37, R202: the engine register between steps. -/
structure EngineConsistent (s : State) : Prop where
  /-- R36: `eng` = `IDLE` if and only if `BUSY` = 0. -/
  idleIff : s.engine.eng = .idle ↔ s.status.busy = false
  /-- An idle engine is at rest. -/
  atRest : s.engine.eng = .idle → s.engine = idleEngine
  /-- A busy engine is in a state of the command in progress. -/
  owned : s.engine.eng ≠ .idle →
    ∃ i, decodeCommand s.status.cmdLast = .ok i ∧ ownState i s.engine.ctx s.engine.eng = true
  /-- R37: the framer runs in `PK`. -/
  framing : s.engine.eng = .pk → s.engine.fs ≠ .idle
  /-- R37: `FS` = `Idle` whenever `eng` is not `PK` and `ctx` = `CMD`. -/
  notFraming : s.engine.eng ≠ .pk → s.engine.ctx = .cmd → s.engine.fs = .idle
  /-- R37: while recovery runs, `FS` holds `DoReset`. -/
  recovering : s.engine.ctx = .recovery → s.engine.fs = .doReset
  /-- R202: recovery resets with mode 0. -/
  recoveryMode : s.engine.ctx = .recovery → s.latched.rmode = 0

/-- The engine states that hold a write (R360). -/
def isSendState (e : Eng) : Bool := [Eng.ldHdr, .ldPay, .rnHdr, .vpSend, .rwWrite].contains e

/-- R57: `txq` is empty whenever `eng` = `IDLE`; more, it holds bytes only of a write in progress. -/
structure WriteConsistent (s : State) : Prop where
  engine : EngineConsistent s
  active : s.wr.act = true → isSendState s.engine.eng = true
  queued : s.wr.act = false → s.fifo.txq = []

/-- The request of the read a state holds (R153, R243 to R250, R258, R259, R293); 0 where it holds none. -/
def readRequest (s : State) : Nat :=
  match s.engine.eng with
  | .rrRead => s.latched.len.toNat
  | .vpRead => s.latched.len.toNat
  | .pk =>
    match s.engine.fs with
    | .readSizeHigh => 1
    | .readSizeLow => 1
    | .readFormat => 1
    | .readRebootByteHigh => 1
    | .readRebootByteLow => 1
    | .readData => subReadLength s
    | _ => 0
  | _ => 0

/-- R38, R57, R268: the framer registers and the read in progress. -/
structure FramerConsistent (s : State) : Prop where
  engine : EngineConsistent s
  /-- R107: `size = blocks << 8`. -/
  sizeIs : s.work.size = packetSize s.work.blocks
  /-- R57: `i + j <= size`. -/
  inside : s.work.i.toNat + s.work.j.toNat ≤ s.work.size.toNat
  /-- R38, R252: a full chunk is counted at once, so `j` stays below 1024 between steps. -/
  chunk : s.work.j.toNat < 1024
  /-- R242: before the size is assembled nothing is counted. -/
  fresh : (s.engine.fs = .readSizeHigh ∨ s.engine.fs = .readSizeLow ∨ s.engine.fs = .readFormat) →
    s.work.i = 0 ∧ s.work.j = 0
  /-- R268: recovery starts only at a chunk boundary. -/
  boundary : (s.engine.fs = .doReset ∨ s.engine.fs = .readRebootByteHigh ∨ s.engine.fs = .readRebootByteLow) →
    s.work.j = 0 ∧ s.work.i.toNat % 1024 = 0
  /-- In `ReadData` every counted chunk is full. -/
  wholeChunks : s.engine.fs = .readData → s.work.i.toNat % 1024 = 0
  /-- R57: `rd_got` is below the request of the read in progress. -/
  request : s.rd.act = true → s.rd.got.toNat < readRequest s

/-- The levels a character puts on the serial line, one a step: start bit, eight data bits least significant
first, stop bit, `baud` steps each (R116). -/
def characterLevels (baud : Nat) (b : Byte) : List Bool :=
  List.replicate baud false ++ (List.range 8).flatMap (fun k => List.replicate baud (b.getLsbD k)) ++
    List.replicate baud true

/-- The bit-level receiver (R143) over a sequence of line levels: the events it makes, and where it ends. -/
def receiverRun (baud : Nat) : List Bool → RxPhase → List RxEvent × RxPhase
  | [], ph => ([], ph)
  | l :: ls, ph =>
    let n := bitRxNext baud l ph
    let r := receiverRun baud ls n.1
    (if n.2 = .none then r.1 else n.2 :: r.1, r.2)

/-- The budget a one-byte or longer read has in a step: its own, or `TIMEOUT` when it starts in this step (R145). -/
def budgetInStep (s : State) : BitVec 32 := if s.rd.act then s.rd.budget else s.host.timeout

/-- The bytes a read has taken before a step's own: its count, or none when it starts in this step (R145). -/
def gotInStep (s : State) : BitVec 16 := if s.rd.act then s.rd.got else 0

/-- The write registers a step of a write works on: its own, or those of a write that starts in this step (R147). -/
def writeInStep (s : State) : WriteRegs :=
  if s.wr.act then s.wr else { act := true, idx := 0, sent := 0, stall := s.cfg.writeStall }

/-- A write of `n` bytes pushes a byte in this step (R147). -/
abbrev canPush (n : Nat) (s : State) : Prop :=
  (writeInStep s).idx.toNat < n ∧ s.fifo.txq.length < s.cfg.txFifoDepth

/-- Every byte of a write of `n` bytes has been pushed and has started on the line (R147). -/
abbrev allStarted (n : Nat) (s : State) : Prop := (writeInStep s).idx.toNat = n ∧ s.fifo.txq = []

/-- The delay registers a step of `WAIT(n)` works on: its own, or those of a delay that starts in this step (R148). -/
def delayInStep (n : BitVec 32) (s : State) : DelayRegs := if s.dly.act then s.dly else { act := true, cnt := n }

/-- Two states that differ at most in `rmode[2]`, the latched ALTPORT bit (R201). -/
def sameButAltport (s t : State) : Prop :=
  t = { s with latched.rmode := t.latched.rmode } ∧
    t.latched.rmode.getLsbD 0 = s.latched.rmode.getLsbD 0 ∧
    t.latched.rmode.getLsbD 1 = s.latched.rmode.getLsbD 1

end Sys2Proof.Machine
end

