-- ==== Sys2Proof/Certificates/Slice0/Obligations.lean ====
section
/-! DEFINITION. The statements for the provers. Each says what a numbered rule of spec/ says, of every state it
applies to; an equation `exec i s = .next { s with … }` is also the instruction's frame: every field not named is
unchanged. -/

open Sys2Proof Sys2Proof.Machine

/-! ### Encoding -/

/-- The decoder gives back every instruction from its code, every operand at every value (R91 to R111). -/
def Obligations.DecodeOfEncode : Prop := ∀ i : Instr, decode (encode i) = .ok i

/-- A code that decodes is the code of the instruction it decodes to: no bit of a code is dropped (R91 to R97). -/
def Obligations.EncodeOfDecode : Prop := ∀ (c : Code) (i : Instr), decode c = .ok i → encode i = c

/-- Words of 95_test_vectors.md section 2.1 and the constant sequences of R101 to R103, written out. -/
def Obligations.SpecWordsDecode : Prop :=
  decode (.cmd 0x00000000) = .ok .nop ∧ decode (.cmd 0x00000302) = .ok (.resetUnit true true false) ∧
  decode (.cmd 0x00000402) = .ok (.resetUnit false false true) ∧ decode (.cmd 0x00100007) = .ok (.read 16) ∧
  decode (.cmd 0x00400006) = .ok (.getVersion 64) ∧ decode (.cmd 0x00010008) = .ok (.write 1) ∧
  decode (.cmd 0x00000009) = .ok .imgClear ∧ decode (.tx [0xA1]) = .ok .versionQuery ∧
  decode (.tx [0x4B, 0x00, 0x04, 0x04, 0xB4]) = .ok .loadHdr ∧
  decode (.tx [0x7E, 0x00, 0x04, 0x00, 0xE7]) = .ok .runHdr ∧
  decode (.header 0x00 0x0B 0x04) = .ok (.pktReset 0x00 0x0B) ∧
  decode (.announce 0x00 0x0C) = .ok (.rebootAnnounce 0x00 0x0C)

/-- R96: opcodes 0x0A to 0xFF, and R93: nonzero reserved fields, spell no command. -/
def Obligations.InvalidWordsRefusedByDecoder : Prop :=
  (∀ w : Word, 0x0A ≤ (cmdOpc w).toNat → decodeCommand w = .error (.badOpcode (cmdOpc w))) ∧
  (∀ w : Word, (cmdOpc w).toNat ≠ 2 → cmdArg w ≠ 0 → ∃ e, decodeCommand w = .error e) ∧
  (∀ w : Word, (cmdOpc w).toNat = 2 → (cmdArg w).extractLsb' 3 5 ≠ 0 → ∃ e, decodeCommand w = .error e) ∧
  (∀ w : Word, (cmdOpc w).toNat ∉ [6, 7, 8] → cmdLen w ≠ 0 → ∃ e, decodeCommand w = .error e)

/-- R93, R96: a refused word, issued to an idle block, changes RESULT, LAST_ERR and CMD_LAST; BUSY, set by the
issue, falls in the same step. -/
def Obligations.RefusedWordChangesOnlyResult : Prop :=
  ∀ (s : State) (w : Word) (e : DecodeError), s.engine = idleEngine → s.status.busy = false →
    s.rd.act = false → s.wr.act = false → s.dly.act = false → decodeCommand w = .error e →
    phase3 (issue w s) = .next { s with status := { s.status with cmdLast := w, result := 7, lastErr := 7 } }

/-! ### The step runs the decoded instruction -/

/-- R9, R67: a command word written to `CMD` of the idle block is decoded and run in P3 of the same step, between
P1, P2 and P4, P5. -/
def Obligations.StepRunsIssuedCommand : Prop :=
  ∀ (s : State) (addr : BitVec 8) (w : Word) (i : Instr), (nextInput s).rst = false → s.status.busy = false →
    (nextInput s).bus = .write addr w → addr &&& 0xFC = 0x04 → decodeCommand w = .ok i →
    step s = finishStep (nextInput s) (exec i (phase2 (nextInput s).rx (issue w (beginStep s))))

/-- R9, R36: while a command is in progress, every step runs it, whatever the host does on the bus. -/
def Obligations.StepRunsCommandInProgress : Prop :=
  ∀ (s : State) (i : Instr), (nextInput s).rst = false → s.status.busy = true → s.engine.eng ≠ .idle →
    decodeCommand s.status.cmdLast = .ok i →
    step s = finishStep (nextInput s) (exec i (beforeEngine s)) ∧
    (beforeEngine s).engine = s.engine ∧ (beforeEngine s).status.cmdLast = s.status.cmdLast ∧
    (beforeEngine s).work = s.work ∧ (beforeEngine s).session = s.session ∧
    (beforeEngine s).lines = s.lines ∧ (beforeEngine s).mem = s.mem ∧
    (beforeEngine s).host.timeout = s.host.timeout ∧ (beforeEngine s).host.uv = s.host.uv

/-- R218, R224, R245, R246, R259, R292: in the engine state that sends a code, the command's P3 is the code's meaning;
in `ReadFormat` with a byte waiting, the header made of the latched size bytes and that byte is decoded and its
meaning run on the state with the byte taken; in `ReadRebootByteLow`, that of the announcement made of `hb` and the
byte. -/
def Obligations.WireCodesRunInTheirStates : Prop :=
  ∀ (s : State) (i : Instr), decodeCommand s.status.cmdLast = .ok i →
    (s.engine.eng = .ldHdr → (i = .loadPlugin ∨ i = .readPacket) → phase3 s = exec .loadHdr s) ∧
    (s.engine.eng = .rnHdr → (i = .runPlugin ∨ i = .readPacket) → phase3 s = exec .runHdr s) ∧
    (∀ len, s.engine.eng = .vpSend → i = .getVersion len → phase3 s = exec .versionQuery s) ∧
    (∀ (b : Byte) (q : List Byte), s.engine.eng = .pk → i = .readPacket → (s.rd.act = true → s.rd.got = 0) →
      s.fifo.rxq = b :: q →
      (s.engine.fs = .readFormat → ∀ h, decode (.header (latchedHi s) (latchedLo s) b) = .ok h →
        phase3 s = exec h { s with fifo.rxq := q, rd := { act := false, got := 1, budget := budgetInStep s } }) ∧
      (s.engine.fs = .readRebootByteLow → ∀ a, decode (.announce s.work.hb b) = .ok a →
        phase3 s = exec a { s with fifo.rxq := q, rd := { act := false, got := 1, budget := budgetInStep s } }))

/-! ### Block reset -/

/-- R341: the register reads right after reset, for every parameter value. `DBUF_DATA` is left out: its byte is a
draw (R343). -/
def Obligations.ResetRegisterReads : Prop :=
  ∀ p : Params, readReg .id (State.resetWith p) = 0x434E5046 ∧ readReg .status (State.resetWith p) = 0x00000008 ∧
    readReg .ctrl (State.resetWith p) = 0x00000003 ∧
    ∀ r : Reg, r ≠ .id → r ≠ .status → r ≠ .ctrl → r ≠ .dbufData → readReg r (State.resetWith p) = 0

/-- R340, R341: a step with `rst` puts every element of R341 at its reset value whatever the block was doing,
keeps the parameters, ignores the bus (a read returns 0) and sends nothing. -/
def Obligations.ResetOverridesEverything : Prop :=
  ∀ s : State, (nextInput s).rst = true → ∃ t, step s = .next t ∧
    t = { State.resetWith s.cfg with env := t.env, draws := t.draws, epoch := t.epoch, out := t.out } ∧
    t.out.txEv = none ∧ ∀ addr, (nextInput s).bus = .read addr → t.out.rdata = some 0

/-! ### Host registers -/

/-- R64, R65, R67, R70, R71, R73, R75, R77, R79, R80, R82: the plain registers, read and written while idle: what a
read returns, and what a write changes, all else staying as it was. `RX_LEVEL` reads the low 16 bits of the number of
bytes waiting, which is the number for every depth up to 65535 (above that it is the model's reading, DEDUCED,
assumption log 11). -/
def Obligations.PlainRegistersReadAndWrite : Prop :=
  ∀ (s : State) (data : Word) (k : Fin 4), s.status.busy = false →
    readReg .id s = 0x434E5046 ∧ writeReg .id data s = s ∧
    readReg .cmd s = s.status.cmdLast ∧
    writeReg .cmd data s = { s with
      status := { s.status with cmdLast := data, busy := true }
      engine := { s.engine with eng := .decode, ctx := .cmd } } ∧
    readReg .lastErr s = s.status.lastErr.setWidth 32 ∧ writeReg .lastErr data s = s ∧
    readReg .timeout s = s.host.timeout ∧ writeReg .timeout data s = { s with host.timeout := data } ∧
    readReg .rbyte s = s.session.rbyte.setWidth 32 ∧ writeReg .rbyte data s = s ∧
    readReg .rcount s = s.session.rcount.setWidth 32 ∧ writeReg .rcount data s = s ∧
    readReg .pktPtr s = s.host.pktPtr.setWidth 32 ∧
    writeReg .pktPtr data s = { s with host.pktPtr := data.extractLsb' 0 24 } ∧
    readReg .imgPtr s = s.host.imgPtr.setWidth 32 ∧
    writeReg .imgPtr data s = { s with host.imgPtr := data.extractLsb' 0 10 } ∧
    readReg .dbufPtr s = s.host.dbufPtr.setWidth 32 ∧
    writeReg .dbufPtr data s = { s with host.dbufPtr := data.extractLsb' 0 16 } ∧
    (readReg (.uv k) s).getLsbD 8 = s.host.uv[k].en ∧ (readReg (.uv k) s).extractLsb' 0 8 = s.host.uv[k].value ∧
    (readReg (.uv k) s).extractLsb' 9 23 = 0 ∧ readReg (.uv k) (writeReg (.uv k) data s) = data &&& 0x1FF ∧
    (∃ uv, writeReg (.uv k) data s = { s with host.uv := uv } ∧
      uv[k] = { en := data.getLsbD 8, value := data.extractLsb' 0 8 } ∧
      ∀ j : Fin 4, j ≠ k → uv[j] = s.host.uv[j]) ∧
    readReg .xferCount s = s.host.xferCount.setWidth 32 ∧ writeReg .xferCount data s = s ∧
    readReg .rxLevel s = (BitVec.ofNat 16 s.fifo.rxq.length).setWidth 32 ∧ writeReg .rxLevel data s = s

/-- R61, R63: `addr[1:0]` is ignored; offsets 0x60 to 0xFC read 0, and a write to one has no effect while idle and
sets `CMD_REJ` while busy. -/
def Obligations.ReservedOffsetsReadZero : Prop :=
  (∀ addr : BitVec 8, regAt (addr &&& 0xFC) = regAt addr) ∧
  ∀ (addr : BitVec 8) (data : Word) (s : State), 0x60 ≤ (addr &&& 0xFC).toNat →
    readReg (regAt addr) s = 0 ∧ readEffect (regAt addr) s = s ∧
    (s.status.busy = false → writeReg (regAt addr) data s = s) ∧
    (s.status.busy = true → writeReg (regAt addr) data s = { s with status.cmdRej := true })

/-- R66, R69: while busy a write to any register but `STATUS` only sets `CMD_REJ`; a write to `STATUS`, busy or not,
clears exactly the sticky flags written 1, and a flag that P2 of the same step sets reads 1. -/
def Obligations.BusyWritesAndStickyFlags : Prop :=
  (∀ (s : State) (r : Reg) (data : Word), s.status.busy = true → r ≠ .status →
    writeReg r data s = { s with status.cmdRej := true }) ∧
  (∀ (s : State) (data : Word), writeReg .status data s = { s with status := { s.status with
      cmdRej := s.status.cmdRej && !data.getLsbD 4
      rxOvr := s.status.rxOvr && !data.getLsbD 5
      rxFerr := s.status.rxFerr && !data.getLsbD 6 } }) ∧
  (∀ (s : State) (data : Word), (receive .ferr (writeReg .status data s)).status.rxFerr = true) ∧
  (∀ (s : State) (data : Word) (b : Byte), s.cfg.rxFifoDepth ≤ s.fifo.rxq.length →
    (receive (.byte b) (writeReg .status data s)).status.rxOvr = true)

/-- R68, R114: every field of `STATUS` at its place, the reserved bits 0, and `FSM` the framer state's code. -/
def Obligations.StatusFields : Prop :=
  ∀ s : State, (readReg .status s).getLsbD 0 = s.status.busy ∧ (readReg .status s).getLsbD 1 = s.status.pktValid ∧
    (readReg .status s).getLsbD 2 = s.status.pluginValid ∧ (readReg .status s).getLsbD 3 = !s.sync.ps2 ∧
    (readReg .status s).getLsbD 4 = s.status.cmdRej ∧ (readReg .status s).getLsbD 5 = s.status.rxOvr ∧
    (readReg .status s).getLsbD 6 = s.status.rxFerr ∧ (readReg .status s).getLsbD 7 = false ∧
    (readReg .status s).extractLsb' 8 4 = s.status.result ∧ (readReg .status s).extractLsb' 12 4 = 0 ∧
    (∀ f ∈ [(Framer.idle, (0 : BitVec 4)), (.start, 1), (.readSizeHigh, 2), (.readSizeLow, 3), (.readFormat, 4),
        (.readData, 5), (.doReset, 6), (.readRebootByteHigh, 7), (.readRebootByteLow, 8), (.endState, 9)],
      s.engine.fs = f.1 → (readReg .status s).extractLsb' 16 4 = f.2) ∧
    (readReg .status s).extractLsb' 20 12 = 0

/-- R171 to R173: every field of `CTRL` at its place, the other bits 0; a write while idle sets the three output
fields and nothing else; writing back the value just read leaves the whole state as it was, for output fields that
hold only the lines there are. -/
def Obligations.CtrlReadsAndWrites : Prop :=
  ∀ (s : State) (data : Word), s.cfg.auxOutW ≤ 6 → s.cfg.auxInW ≤ 7 →
    (readReg .ctrl s).getLsbD 0 = s.lines.dtr ∧ (readReg .ctrl s).getLsbD 1 = s.lines.mode ∧
    (∀ k, k < 6 → (readReg .ctrl s).getLsbD (2 + k) = (decide (k < s.cfg.auxOutW) && s.lines.auxOut.getLsbD k)) ∧
    (readReg .ctrl s).getLsbD 8 = s.sync.ps2 ∧
    (∀ k, k < 7 → (readReg .ctrl s).getLsbD (9 + k) = (decide (k < s.cfg.auxInW) && s.sync.aux2.getLsbD k)) ∧
    (∀ k, 16 ≤ k → (readReg .ctrl s).getLsbD k = false) ∧
    (s.status.busy = false → ∃ aux : BitVec 6,
      (∀ k, k < 6 → aux.getLsbD k = (decide (k < s.cfg.auxOutW) && data.getLsbD (2 + k))) ∧
      writeReg .ctrl data s = { s with
        lines := { dtr := data.getLsbD 0, mode := data.getLsbD 1, auxOut := aux } }) ∧
    (maskLow s.cfg.auxOutW s.lines.auxOut = s.lines.auxOut → s.status.busy = false →
      writeReg .ctrl (readReg .ctrl s) s = s)

/-- R61, R62: the register at each offset of the map; and what P1 does in a step: nothing without an access, a read's
value and side effect (which only the three data ports have), or the write rule of the register written. -/
def Obligations.HostAccessesReachTheirRegisters : Prop :=
  (∀ r ∈ [((0x00 : BitVec 8), Reg.id), (0x04, .cmd), (0x08, .status), (0x0C, .lastErr), (0x10, .timeout),
      (0x14, .ctrl), (0x18, .rbyte), (0x1C, .rcount), (0x20, .pktType), (0x24, .pktBlocks), (0x28, .pktSize),
      (0x2C, .pktCount), (0x30, .pktPtr), (0x34, .pktData), (0x38, .imgPtr), (0x3C, .imgData), (0x40, .uv 0),
      (0x44, .uv 1), (0x48, .uv 2), (0x4C, .uv 3), (0x50, .dbufPtr), (0x54, .dbufData), (0x58, .xferCount),
      (0x5C, .rxLevel)], regAt r.1 = r.2) ∧
  (∀ (r : Reg) (s : State), r ∉ [Reg.pktData, .imgData, .dbufData] → readEffect r s = s) ∧
  ∀ s : State, (nextInput s).rst = false →
    beginStep s = { s with env := s.env.tail, draws := (beginStep s).draws, out := (beginStep s).out } ∧
    ((nextInput s).bus = .none →
      step s = finishStep (nextInput s) (phase3 (phase2 (nextInput s).rx (beginStep s)))) ∧
    (∀ addr, (nextInput s).bus = .read addr →
      step s = finishStep (nextInput s) (phase3 (phase2 (nextInput s).rx
        (readEffect (regAt addr) { beginStep s with out.rdata := some (readReg (regAt addr) s) })))) ∧
    (∀ addr data, (nextInput s).bus = .write addr data →
      step s = finishStep (nextInput s) (phase3 (phase2 (nextInput s).rx (writeReg (regAt addr) data (beginStep s)))))

/-- R74, R76: the result views and `PKT_DATA` read 0 unless a complete packet is held; `PKT_DATA` reads `PKT_MEM`
below `size` and its pointer advances modulo 2^24 in every case; writes are ignored. -/
def Obligations.ResultViewsAreGated : Prop :=
  ∀ (s : State) (data : Word),
    (s.status.pktValid = true → readReg .pktType s = s.work.ftype.setWidth 32 ∧
      readReg .pktBlocks s = s.work.blocks.setWidth 32 ∧ readReg .pktSize s = s.work.size.setWidth 32 ∧
      readReg .pktCount s = s.work.i.setWidth 32 ∧
      (s.host.pktPtr < s.work.size → readReg .pktData s = (memRead .pkt s.host.pktPtr.toNat s).setWidth 32) ∧
      (s.work.size ≤ s.host.pktPtr → readReg .pktData s = 0)) ∧
    (s.status.pktValid = false → readReg .pktType s = 0 ∧ readReg .pktBlocks s = 0 ∧ readReg .pktSize s = 0 ∧
      readReg .pktCount s = 0 ∧ readReg .pktData s = 0) ∧
    readEffect .pktData s = { s with host.pktPtr := s.host.pktPtr + 1 } ∧
    (s.status.busy = false → ∀ r ∈ [Reg.pktType, .pktBlocks, .pktSize, .pktCount, .pktData], writeReg r data s = s)

/-- R78: `IMG_DATA` reads and writes the byte at `IMG_PTR`, which then advances modulo 1024; a write clears
`PLUGIN_VALID` and leaves every other byte of every memory. -/
def Obligations.ImgDataPort : Prop :=
  ∀ (s : State) (data : Word), memoryCanonical s →
    readReg .imgData s = (memRead .img s.host.imgPtr.toNat s).setWidth 32 ∧
    readEffect .imgData s = { s with host.imgPtr := s.host.imgPtr + 1 } ∧
    (s.status.busy = false → ∃ m, writeReg .imgData data s =
        { s with mem := m, host.imgPtr := s.host.imgPtr + 1, status.pluginValid := false } ∧
      memRead .img s.host.imgPtr.toNat { s with mem := m } = data.extractLsb' 0 8 ∧
      ∀ id a, (id ≠ .img ∨ a ≠ s.host.imgPtr.toNat) → memRead id a { s with mem := m } = memRead id a s)

/-- R81: `DBUF_DATA` reads and writes the byte at `DBUF_PTR` when that is inside `DBUF`; outside it reads 0 and
stores nothing; the pointer advances modulo 2^16 in every case. -/
def Obligations.DbufDataPort : Prop :=
  ∀ (s : State) (data : Word), memoryCanonical s →
    (s.host.dbufPtr.toNat < s.cfg.dbufBytes →
      readReg .dbufData s = (memRead .dbuf s.host.dbufPtr.toNat s).setWidth 32 ∧
      (s.status.busy = false → ∃ m, writeReg .dbufData data s =
          { s with mem := m, host.dbufPtr := s.host.dbufPtr + 1 } ∧
        memRead .dbuf s.host.dbufPtr.toNat { s with mem := m } = data.extractLsb' 0 8 ∧
        ∀ id a, (id ≠ .dbuf ∨ a ≠ s.host.dbufPtr.toNat) → memRead id a { s with mem := m } = memRead id a s)) ∧
    (s.cfg.dbufBytes ≤ s.host.dbufPtr.toNat →
      readReg .dbufData s = 0 ∧
      (s.status.busy = false → writeReg .dbufData data s = { s with host.dbufPtr := s.host.dbufPtr + 1 })) ∧
    readEffect .dbufData s = { s with host.dbufPtr := s.host.dbufPtr + 1 }

/-! ### The channel -/

/-- R131 to R133: a byte is appended when `rxq` has room and dropped with `RX_OVR` when it is full; a framing error
sets `RX_FERR` and delivers nothing. -/
def Obligations.ReceiverPush : Prop :=
  ∀ (s : State) (b : Byte),
    phase2 (.event .none) s = s ∧
    (s.fifo.rxq.length < s.cfg.rxFifoDepth →
      phase2 (.event (.byte b)) s = { s with fifo.rxq := s.fifo.rxq ++ [b] }) ∧
    (s.cfg.rxFifoDepth ≤ s.fifo.rxq.length → phase2 (.event (.byte b)) s = { s with status.rxOvr := true }) ∧
    phase2 (.event .ferr) s = { s with status.rxFerr := true }

/-- R137 to R139: with the line free (or its character at its end) and CTS asserted the oldest byte of `txq` starts,
counted for the write in progress; with CTS deasserted or `txq` empty none starts, and a character at its end frees
the line; a character on the line goes on. P4 writes the FIFO, the transmitter, the write registers and its two
outputs, and nothing else. -/
def Obligations.TransmitterSendsOldestByte : Prop :=
  ∀ (s : State), s.out.txEv = none →
    (∀ (b : Byte) (q : List Byte), (s.tx.busy = false ∨ s.tx.cnt = 0) → s.fifo.txq = b :: q → s.sync.cts2 = true →
      (phase4 s).out.txEv = some b ∧ (phase4 s).fifo = { s.fifo with txq := q } ∧
      (phase4 s).tx = { busy := true, cnt := s.cfg.frameCycles - 1, byte := b } ∧
      (s.wr.act = true → (phase4 s).wr = { s.wr with sent := s.wr.sent + 1, stall := s.cfg.writeStall }) ∧
      (s.wr.act = false → (phase4 s).wr = s.wr)) ∧
    (s.sync.cts2 = false → (phase4 s).out.txEv = none ∧ (phase4 s).fifo = s.fifo ∧ (phase4 s).wr = s.wr) ∧
    ((s.tx.busy = false ∨ s.tx.cnt = 0) → (s.sync.cts2 = false ∨ s.fifo.txq = []) →
      (phase4 s).out.txEv = none ∧ (phase4 s).fifo = s.fifo ∧ (phase4 s).wr = s.wr ∧
      (phase4 s).tx = { s.tx with busy := false }) ∧
    (s.tx.busy = true → s.tx.cnt ≠ 0 → (phase4 s).out.txEv = none ∧ (phase4 s).fifo = s.fifo ∧
      (phase4 s).wr = s.wr ∧ (phase4 s).tx = { s.tx with cnt := s.tx.cnt - 1 }) ∧
    phase4 s = { s with
      fifo := (phase4 s).fifo, tx := (phase4 s).tx, wr := (phase4 s).wr
      out := { s.out with txEv := (phase4 s).out.txEv, txdO := (phase4 s).out.txdO } }

/-- R116, R143, R144: the bit-level refinement: the transmitter drives a character's ten bits for `BAUD_CYCLES` steps
each and 1 when none is on the line; the receiver, given those levels from its idle state, makes exactly one event, the
byte, and is idle again; a 0 in place of the stop bit makes `ferr`, and a start bit gone at its middle makes nothing. -/
def Obligations.BitLevelCharacters : Prop :=
  (∀ (s : State) (k : Nat), s.tx.busy = true → s.cfg.frameCycles = 10 * s.cfg.baudCycles →
    k < s.cfg.frameCycles → s.tx.cnt = s.cfg.frameCycles - 1 - k →
    (characterLevels s.cfg.baudCycles s.tx.byte)[k]? = some (txdLevel s)) ∧
  (∀ s : State, s.tx.busy = false → txdLevel s = true) ∧
  ∀ (baud : Nat) (b : Byte), 1 ≤ baud →
    receiverRun baud (characterLevels baud b) .idle = ([.byte b], .idle) ∧
    receiverRun baud ((characterLevels baud b).take (9 * baud) ++ List.replicate baud false) .idle =
      ([.ferr], .waitHigh) ∧
    (2 ≤ baud → receiverRun baud (List.replicate (baud / 2) false ++ [true]) .idle = ([], .idle))

/-- R141, R142, R181: an input level that two steps hold is in the second synchroniser stage after them, whatever the
engine does in both; a level of one step, a pulse, is there or was not captured, and then the stage keeps what it had
(that a pulse not captured leaves the stage as it was is the model's reading, DEDUCED, assumption log 13); the
timebase counts every step modulo `TICK_CYCLES`. -/
def Obligations.SynchronisersAndTimebase : Prop :=
  ∀ s t u : State, (nextInput s).rst = false → (nextInput t).rst = false → step s = .next t → step t = .next u →
    t.tickCnt = (s.tickCnt + 1) % s.cfg.tickCycles ∧
    (u.sync.cts2 = (nextInput s).cts ∨
      (nextInput t).cts ≠ (nextInput s).cts ∧ u.sync.cts2 = t.sync.cts2) ∧
    (u.sync.ps2 = (nextInput s).psense ∨
      (nextInput t).psense ≠ (nextInput s).psense ∧ u.sync.ps2 = t.sync.ps2) ∧
    ∀ k, k < 7 →
      u.sync.aux2.getLsbD k = (maskLow s.cfg.auxInW (nextInput s).aux).getLsbD k ∨
      (maskLow s.cfg.auxInW (nextInput t).aux).getLsbD k ≠ (maskLow s.cfg.auxInW (nextInput s).aux).getLsbD k ∧
        u.sync.aux2.getLsbD k = t.sync.aux2.getLsbD k

/-- R9, R61, R135, R174: the lines and RTS driven in a step are the registers and the FIFO room at its start, and a
read (with `rst` = 0) returns the value its register has at the start of the step; a step with no read returns none. -/
def Obligations.OutputsAreRegistered : Prop :=
  ∀ s t : State, step s = .next t → t.out.dtrO = s.lines.dtr ∧ t.out.modeO = s.lines.mode ∧
    t.out.auxO = maskLow s.cfg.auxOutW s.lines.auxOut ∧
    t.out.rtsO = decide (s.cfg.rtsHeadroom ≤ s.cfg.rxFifoDepth - s.fifo.rxq.length) ∧
    ((nextInput s).rst = false → ∀ addr, (nextInput s).bus = .read addr →
      t.out.rdata = some (readReg (regAt addr) s)) ∧
    ((∀ addr, (nextInput s).bus ≠ .read addr) → t.out.rdata = none)

/-- R145, R146: with every step a tick and no byte arriving, a new logical read of `r` bytes is pending for as many
steps as `TIMEOUT` has ticks and then ends short with no byte. -/
def Obligations.ReadGivesUpAfterItsBudget : Prop :=
  ∀ (s : State) (r : Nat), 1 ≤ r → s.rd.act = false → s.fifo.rxq = [] → s.cfg.tickCycles = 1 → s.tickCnt = 0 →
    (∀ k, k < s.host.timeout.toNat →
      (logicalRead noStore r ((fun t => (logicalRead noStore r t).state)^[k] s)).result = .pending) ∧
    (logicalRead noStore r ((fun t => (logicalRead noStore r t).state)^[s.host.timeout.toNat] s)).result = .done 0

/-- R148: with every step a tick, a delay of `n` ticks is pending for `n` steps and ends in the next. -/
def Obligations.DelayLastsItsTicks : Prop :=
  ∀ (s : State) (n : BitVec 32), s.dly.act = false → s.cfg.tickCycles = 1 → s.tickCnt = 0 →
    (∀ k, k < n.toNat → (waitTicks n ((fun t => (waitTicks n t).2)^[k] s)).1 = false) ∧
    (waitTicks n ((fun t => (waitTicks n t).2)^[n.toNat] s)).1 = true

/-! ### The channel commands -/

/-- R149, R151, R152: NOP writes `RESULT` and `BUSY` (and leaves the engine idle); FLUSH does so too and empties both
FIFOs, a character on the line not touched. -/
def Obligations.NopAndFlushComplete : Prop :=
  ∀ s : State,
    exec .nop s = .next { s with
      status := { s.status with result := 0, busy := false }, engine := { eng := .idle, ctx := .cmd, fs := .idle } } ∧
    exec .flush s = .next { s with
      fifo := { rxq := [], txq := [] }
      status := { s.status with result := 0, busy := false }, engine := { eng := .idle, ctx := .cmd, fs := .idle } }

/-- R95, R153, R154, R291: the dispatch step of READ, WRITE and GET_VERSION: a length of 1 to `DBUF_BYTES` is
latched (GET_VERSION flushes), any other raises InvalidParamsError with no flush and no other change. -/
def Obligations.LengthOperandsAtDispatch : Prop :=
  ∀ (s : State) (len : BitVec 16), s.engine.eng = .decode →
    (1 ≤ len.toNat → len.toNat ≤ s.cfg.dbufBytes →
      exec (.read len) s = .next { s with latched.len := len, engine.eng := .rrRead } ∧
      exec (.write len) s = .next { s with latched.len := len, engine.eng := .rwWrite } ∧
      exec (.getVersion len) s = .next { s with
        latched.len := len, engine.eng := .vpSend, fifo := { rxq := [], txq := [] } }) ∧
    ((len = 0 ∨ s.cfg.dbufBytes < len.toNat) → ∀ i ∈ [Instr.read len, .write len, .getVersion len],
      exec i s = .next { s with
        status := { s.status with result := 7, lastErr := 7, busy := false }
        engine := { eng := .idle, ctx := .cmd, fs := .idle }
        rd.act := false, wr.act := false, dly.act := false })

/-- R145, R153, R293, R294: a step of READ or GET_VERSION that finds a byte waiting, the first step of the read
included: the byte goes to `DBUF` at the read's index, every other byte of memory stays; the last byte asked for, or a
used up budget, ends the command with `XFER_COUNT` = the count, and else the read goes on. -/
def Obligations.ReadStoresEachByte : Prop :=
  ∀ (s : State) (i : Instr) (l : BitVec 16) (b : Byte) (q : List Byte),
    ((i = .read l ∧ s.engine.eng = .rrRead) ∨ (i = .getVersion l ∧ s.engine.eng = .vpRead)) → memoryCanonical s →
    (gotInStep s).toNat < s.latched.len.toNat → s.latched.len.toNat ≤ s.cfg.dbufBytes → s.fifo.rxq = b :: q →
    ∃ m,
      ((gotInStep s).toNat + 1 = s.latched.len.toNat ∨ budgetInStep s = 0 → exec i s = .next { s with
        mem := m, fifo.rxq := q, rd := { act := false, got := gotInStep s + 1, budget := budgetInStep s }
        host.xferCount := gotInStep s + 1
        status := { s.status with result := 0, busy := false }
        engine := { eng := .idle, ctx := .cmd, fs := .idle } }) ∧
      ((gotInStep s).toNat + 1 ≠ s.latched.len.toNat → budgetInStep s ≠ 0 → exec i s = .next { s with
        mem := m, fifo.rxq := q
        rd := { act := true, got := gotInStep s + 1
                budget := if tick s then budgetInStep s - 1 else budgetInStep s } }) ∧
      memRead .dbuf (gotInStep s).toNat { s with mem := m } = b ∧
      ∀ id a, (id ≠ .dbuf ∨ a ≠ (gotInStep s).toNat) → memRead id a { s with mem := m } = memRead id a s

/-- R145, R153, R294: a step of READ or GET_VERSION that finds no byte waiting: with the budget used up (or `TIMEOUT`
0 in the read's first step) the command completes with the bytes it has and no error; else the read waits. -/
def Obligations.ShortReadIsNoError : Prop :=
  ∀ (s : State) (i : Instr) (l : BitVec 16),
    ((i = .read l ∧ s.engine.eng = .rrRead) ∨ (i = .getVersion l ∧ s.engine.eng = .vpRead)) → s.fifo.rxq = [] →
    (budgetInStep s = 0 → exec i s = .next { s with
      rd := { act := false, got := gotInStep s, budget := 0 }, host.xferCount := gotInStep s
      status := { s.status with result := 0, busy := false }
      engine := { eng := .idle, ctx := .cmd, fs := .idle } }) ∧
    (budgetInStep s ≠ 0 → gotInStep s ≠ s.latched.len → exec i s = .next { s with
      rd := { act := true, got := gotInStep s, budget := if tick s then budgetInStep s - 1 else budgetInStep s } })

/-- R147, R154: a step of WRITE in `RW_WRITE`, its first step included: the next byte of `DBUF` is pushed while `txq`
has room; when every byte has left the transmitter the command completes with `XFER_COUNT` = `wr_sent`; when nothing
can be pushed and the write is not done, it waits for the character on the line, and with the line idle the stall
count runs, and when it is used up the bytes still queued are discarded and WriteError is raised. -/
def Obligations.WriteSteps : Prop :=
  ∀ (s : State) (l : BitVec 16), s.engine.eng = .rwWrite →
    (canPush s.latched.len.toNat s → exec (.write l) s = .next { s with
      fifo.txq := s.fifo.txq ++ [memRead .dbuf (writeInStep s).idx.toNat s]
      wr := { writeInStep s with idx := (writeInStep s).idx + 1, stall := s.cfg.writeStall } }) ∧
    (allStarted s.latched.len.toNat s → s.tx.busy = false → exec (.write l) s = .next { s with
        wr := { writeInStep s with act := false }, host.xferCount := (writeInStep s).sent
        status := { s.status with result := 0, busy := false }
        engine := { eng := .idle, ctx := .cmd, fs := .idle } }) ∧
    (¬canPush s.latched.len.toNat s → s.tx.busy = true → exec (.write l) s = .next { s with wr := writeInStep s }) ∧
    (¬canPush s.latched.len.toNat s → ¬allStarted s.latched.len.toNat s → s.tx.busy = false →
      ((writeInStep s).stall ≠ 0 → exec (.write l) s = .next { s with
        wr := { writeInStep s with
          stall := if tick s then (writeInStep s).stall - 1 else (writeInStep s).stall } }) ∧
      ((writeInStep s).stall = 0 → exec (.write l) s = .next { s with
        fifo.txq := [], wr := { writeInStep s with act := false }, rd.act := false, dly.act := false
        host.xferCount := (writeInStep s).sent
        status := { s.status with result := 8, lastErr := 8, busy := false }
        engine := { eng := .idle, ctx := .cmd, fs := .idle } }))

/-! ### The reset sequencer -/

/-- R191, R192: the dispatch step of RESET_UNIT latches the mode and changes no line; `RS_MODE`, for the host and in
recovery, writes the mode line and skips the pulse on NORESET. -/
def Obligations.ResetUnitModeStates : Prop :=
  ∀ (s : State) (pm nr ap : Bool),
    (s.engine.eng = .decode → ∃ m : BitVec 3, m.getLsbD 0 = pm ∧ m.getLsbD 1 = nr ∧ m.getLsbD 2 = ap ∧
      exec (.resetUnit pm nr ap) s = .next { s with latched.rmode := m, engine.eng := .rsMode }) ∧
    (s.engine.eng = .rsMode → ∀ i ∈ [Instr.resetUnit pm nr ap, .readPacket],
      exec i s = .next { s with
        lines.mode := !s.latched.rmode.getLsbD 0
        engine.eng := if s.latched.rmode.getLsbD 1 then .rsFinish else .rsAssert })

/-- R193, R195, R197: the one-step states of the reset pulse and of its end, for the host and in recovery. -/
def Obligations.ResetUnitPulseAndFinish : Prop :=
  ∀ (s : State) (pm nr ap : Bool), ∀ i ∈ [Instr.resetUnit pm nr ap, .readPacket],
    (s.engine.eng = .rsAssert → exec i s = .next { s with lines.dtr := false, engine.eng := .rsHold1 }) ∧
    (s.engine.eng = .rsDeassert → exec i s = .next { s with lines.dtr := true, engine.eng := .rsHold2 }) ∧
    (s.engine.eng = .rsFinish → s.engine.ctx = .cmd → exec i s = .next { s with
      fifo := { rxq := [], txq := [] }
      status := { s.status with result := 0, busy := false }
      engine := { eng := .idle, ctx := .cmd, fs := .idle } }) ∧
    (s.engine.eng = .rsFinish → s.engine.ctx = .recovery → exec i s = .next { s with
      fifo := { rxq := [], txq := [] }, engine.eng := .recCheck })

/-- R194, R196, R148: the two holds, of RESET_UNIT and in recovery, wait `SHORT_DELAY` ticks: the first step loads the
delay, a tick is counted (the first step's too), and at 0 the sequence goes on, with `SHORT_DELAY` = 0 in the first
step; no line changes. -/
def Obligations.ResetUnitHolds : Prop :=
  ∀ (s : State) (pm nr ap : Bool) (e f : Eng),
    ((e = .rsHold1 ∧ f = .rsDeassert) ∨ (e = .rsHold2 ∧ f = .rsFinish)) → s.engine.eng = e →
    ∀ i ∈ [Instr.resetUnit pm nr ap, .readPacket],
      ((delayInStep s.cfg.shortDelay s).cnt = 0 → exec i s = .next { s with
        dly := { act := false, cnt := 0 }, engine.eng := f }) ∧
      ((delayInStep s.cfg.shortDelay s).cnt ≠ 0 → tick s = true → exec i s = .next { s with
        dly := { act := true, cnt := (delayInStep s.cfg.shortDelay s).cnt - 1 } }) ∧
      ((delayInStep s.cfg.shortDelay s).cnt ≠ 0 → tick s = false → exec i s = .next { s with
        dly := delayInStep s.cfg.shortDelay s })

/-- R201: RESET_UNIT with ALTPORT set behaves as with it clear: from states that differ at most in the latched bit,
the two step to states that differ at most in it. -/
def Obligations.AltportHasNoEffect : Prop :=
  ∀ (s s' : State) (pm nr ap ap' : Bool), sameButAltport s s' →
    ∃ t t', exec (.resetUnit pm nr ap) s = .next t ∧ exec (.resetUnit pm nr ap') s' = .next t' ∧ sameButAltport t t'

/-! ### The plugin loader and the version probe -/

/-- R212: IMG_CLEAR makes every image byte 0, clears `IMG_PTR` and `PLUGIN_VALID`, and completes; every other byte
of memory stays. -/
def Obligations.ImgClearCompletes : Prop :=
  ∀ s : State, ∃ m, exec .imgClear s = .next { s with
      mem := m, host.imgPtr := 0
      status := { s.status with pluginValid := false, result := 0, busy := false }
      engine := { eng := .idle, ctx := .cmd, fs := .idle } } ∧
    (∀ a, memRead .img a { s with mem := m } = 0) ∧
    ∀ a, memRead .pkt a { s with mem := m } = memRead .pkt a s ∧ memRead .dbuf a { s with mem := m } = memRead .dbuf a s

/-- R213 to R215: the payload carries the value of every enabled slot at the slot's value byte, the constant 1 at its
flag byte under `UV_FLAG_POLICY` = `write_one`, and the image everywhere else. -/
def Obligations.PatchedPayload : Prop :=
  ∀ s : State, 2 ≤ s.cfg.uvRecordSize → s.cfg.uvRecordSize ≤ 256 →
    (∀ k : Fin 4, s.host.uv[k].en = true →
      patchedByte (1024 - (3 - k.val) * s.cfg.uvRecordSize - 1) s = s.host.uv[k].value) ∧
    (∀ k : Fin 4, s.host.uv[k].en = true → s.cfg.uvFlagPolicy = .writeOne →
      patchedByte (1024 - (3 - k.val) * s.cfg.uvRecordSize - 2) s = 0x01) ∧
    (∀ off, off < 1024 →
      (∀ k : Fin 4, s.host.uv[k].en = true → off ≠ 1024 - (3 - k.val) * s.cfg.uvRecordSize - 1 ∧
        (s.cfg.uvFlagPolicy = .writeOne → off ≠ 1024 - (3 - k.val) * s.cfg.uvRecordSize - 2)) →
      patchedByte off s = memRead .img off s)

/-- R217 to R220: LOAD_PLUGIN's dispatch; the steps of the payload, its first step included: the next patched byte is
pushed while `txq` has room, the end of the payload, a wait for the character on the line, the stall count, and
BlockSendError when it is used up; and the end of a load. The payload and the end are those of LOAD_PLUGIN and of
READ_PACKET in recovery. -/
def Obligations.LoadPluginStates : Prop :=
  ∀ s : State,
    (s.engine.eng = .decode → exec .loadPlugin s = .next { s with engine.eng := .ldHdr }) ∧
    (s.engine.eng = .ldPay → ∀ i ∈ [Instr.loadPlugin, .readPacket],
      (canPush 1024 s → exec i s = .next { s with
        fifo.txq := s.fifo.txq ++ [patchedByte (writeInStep s).idx.toNat s]
        wr := { writeInStep s with idx := (writeInStep s).idx + 1, stall := s.cfg.writeStall } }) ∧
      (allStarted 1024 s → s.tx.busy = false → exec i s = .next { s with
          wr := { writeInStep s with act := false }, engine.eng := .ldFinish }) ∧
      (¬canPush 1024 s → s.tx.busy = true → exec i s = .next { s with wr := writeInStep s }) ∧
      (¬canPush 1024 s → ¬allStarted 1024 s → s.tx.busy = false →
        ((writeInStep s).stall ≠ 0 → exec i s = .next { s with
          wr := { writeInStep s with
            stall := if tick s then (writeInStep s).stall - 1 else (writeInStep s).stall } }) ∧
        ((writeInStep s).stall = 0 → exec i s = .next { s with
          fifo.txq := [], wr := { writeInStep s with act := false }, rd.act := false, dly.act := false
          status := { s.status with result := 4, lastErr := 4, busy := false }
          engine := { eng := .idle, ctx := .cmd, fs := .idle } }))) ∧
    (s.engine.eng = .ldFinish → ∀ i ∈ [Instr.loadPlugin, .readPacket],
      (s.engine.ctx = .cmd → exec i s = .next { s with
        status := { s.status with pluginValid := true, result := 0, busy := false }
        engine := { eng := .idle, ctx := .cmd, fs := .idle } }) ∧
      (s.engine.ctx = .recovery → exec i s = .next { s with
        status.pluginValid := true, engine.eng := .rnClear }))

/-- R222 to R224: RUN_PLUGIN's dispatch, the clearing of the counters before the send, and its end. -/
def Obligations.RunPluginStates : Prop :=
  ∀ s : State,
    (s.engine.eng = .decode → exec .runPlugin s = .next { s with engine.eng := .rnClear }) ∧
    (s.engine.eng = .rnClear → ∀ i ∈ [Instr.runPlugin, .readPacket],
      exec i s = .next { s with session := { rbyte := 0, rcount := 0 }, engine.eng := .rnHdr }) ∧
    (s.engine.eng = .rnHdr → s.engine.ctx = .cmd → s.wr.act = true → s.wr.idx = 5 → s.fifo.txq = [] →
      s.tx.busy = false → exec .runPlugin s = .next { s with
        wr.act := false, status := { s.status with result := 0, busy := false }
        engine := { eng := .idle, ctx := .cmd, fs := .idle } })

/-- R101 to R103, R147, R218, R224, R292: a step of sending a fixed code, its first step included: its next byte is
pushed while `txq` has room; when the last byte has left the transmitter the engine goes on; when nothing can be
pushed and the code is not sent, it waits for the character on the line, and with the line idle the stall count runs,
and when it is used up CommandSendError is raised. -/
def Obligations.FixedCodesAreSent : Prop :=
  ∀ (s : State) (i : Instr) (code : List Byte) (next : State → State),
    ((i = .versionQuery ∧ code = [0xA1] ∧ next = fun t => { t with engine.eng := .vpRead }) ∨
      (i = .loadHdr ∧ code = [0x4B, 0x00, 0x04, 0x04, 0xB4] ∧ next = fun t => { t with engine.eng := .ldPay }) ∨
      (i = .runHdr ∧ code = [0x7E, 0x00, 0x04, 0x00, 0xE7] ∧ s.engine.ctx = .cmd ∧ next = fun t => { t with
        status := { t.status with result := 0, busy := false }
        engine := { eng := .idle, ctx := .cmd, fs := .idle } }) ∨
      (i = .runHdr ∧ code = [0x7E, 0x00, 0x04, 0x00, 0xE7] ∧ s.engine.ctx = .recovery ∧
        next = fun t => { t with engine.eng := .recWait })) →
    (canPush code.length s → exec i s = .next { s with
      fifo.txq := s.fifo.txq ++ [code.getD (writeInStep s).idx.toNat 0]
      wr := { writeInStep s with idx := (writeInStep s).idx + 1, stall := s.cfg.writeStall } }) ∧
    (allStarted code.length s → s.tx.busy = false →
      exec i s = .next (next { s with wr := { writeInStep s with act := false } })) ∧
    (¬canPush code.length s → s.tx.busy = true → exec i s = .next { s with wr := writeInStep s }) ∧
    (¬canPush code.length s → ¬allStarted code.length s → s.tx.busy = false →
      ((writeInStep s).stall ≠ 0 → exec i s = .next { s with
        wr := { writeInStep s with
          stall := if tick s then (writeInStep s).stall - 1 else (writeInStep s).stall } }) ∧
      ((writeInStep s).stall = 0 → exec i s = .next { s with
        fifo.txq := [], wr := { writeInStep s with act := false }, rd.act := false, dly.act := false
        status := { s.status with result := 3, lastErr := 3, busy := false }
        engine := { eng := .idle, ctx := .cmd, fs := .idle } }))

/-! ### The packet framer -/

/-- R107, R246: a header of type 1, 2 or 3: `blocks`, `size` and the type are the header's; no block is `End`, more
than `MAX_BLOCKS` raises OversizeError, else the payload is read. -/
def Obligations.PayloadHeaders : Prop :=
  ∀ (s : State) (hi lo : Byte) (i : Instr) (ty : Byte),
    ((i = .pktPrg hi lo ∧ ty = 1) ∨ (i = .pktChr hi lo ∧ ty = 2) ∨ (i = .pktWram hi lo ∧ ty = 3)) →
    ((hi ++ lo : BitVec 16) = 0 → exec i s = .next { s with
      work := { s.work with blocks := 0, size := 0, ftype := ty }, engine.fs := .endState }) ∧
    ((hi ++ lo : BitVec 16) ≠ 0 → (hi ++ lo : BitVec 16).toNat ≤ s.cfg.maxBlocks → exec i s = .next { s with
      work := { s.work with
        blocks := hi ++ lo, size := BitVec.ofNat 24 (256 * (hi ++ lo : BitVec 16).toNat), ftype := ty }
      engine.fs := .readData }) ∧
    ((hi ++ lo : BitVec 16) ≠ 0 → s.cfg.maxBlocks < (hi ++ lo : BitVec 16).toNat → exec i s = .next { s with
      work := { s.work with
        blocks := hi ++ lo, size := BitVec.ofNat 24 (256 * (hi ++ lo : BitVec 16).toNat), ftype := ty }
      rd.act := false, wr.act := false, dly.act := false
      status := { s.status with result := 9, lastErr := 9, busy := false }
      engine := { eng := .idle, ctx := .cmd, fs := .idle } })

/-- R111, R246, R248, R259: end-of-data goes to `End`; a RESET packet sets the threshold to a quarter of its size
field, leaves `rcount`, and goes to `End`; an announcement sets the threshold to a quarter of its value, and the
payload goes on where it was. -/
def Obligations.HeadersWithoutPayload : Prop :=
  ∀ (s : State) (hi lo : Byte),
    exec (.pktEod hi lo) s = .next { s with
      work := { s.work with
        blocks := hi ++ lo, size := BitVec.ofNat 24 (256 * (hi ++ lo : BitVec 16).toNat), ftype := 0 }
      engine.fs := .endState } ∧
    exec (.pktReset hi lo) s = .next { s with
      work := { s.work with
        blocks := hi ++ lo, size := BitVec.ofNat 24 (256 * (hi ++ lo : BitVec 16).toNat), ftype := 4 }
      session.rbyte := BitVec.ofNat 16 ((256 * hi.toNat + lo.toNat) / 4)
      engine.fs := .endState } ∧
    exec (.rebootAnnounce hi lo) s = .next { s with
      session.rbyte := BitVec.ofNat 16 ((256 * hi.toNat + lo.toNat) / 4), engine.fs := .readData }

/-- R112, R247: a type byte of 5 to 255 raises BadTypeError in `ReadFormat` and reads nothing more. -/
def Obligations.UndefinedTypesRefused : Prop :=
  ∀ (s : State) (t : Byte) (q : List Byte), s.engine.eng = .pk → s.engine.fs = .readFormat →
    (s.rd.act = true → s.rd.got = 0) → s.fifo.rxq = t :: q → 5 ≤ t.toNat →
    exec .readPacket s = .next { s with
      fifo.rxq := q, rd := { act := false, got := 1, budget := budgetInStep s }, wr.act := false, dly.act := false
      work.ftype := t, status := { s.status with result := 10, lastErr := 10, busy := false }
      engine := { eng := .idle, ctx := .cmd, fs := .idle } }

/-- R241, R242, R260: READ_PACKET's dispatch hides the previous packet; `Start` clears the working registers; `End`
makes the packet visible and completes. -/
def Obligations.ReadPacketStartAndEnd : Prop :=
  ∀ s : State,
    (s.engine.eng = .decode → exec .readPacket s = .next { s with
      status.pktValid := false, engine.fs := .start, engine.eng := .pk }) ∧
    (s.engine.eng = .pk → s.engine.fs = .start → exec .readPacket s = .next { s with
      work := { hb := 0, blocks := 0, size := 0, i := 0, j := 0, ftype := 0 }, engine.fs := .readSizeHigh }) ∧
    (s.engine.eng = .pk → s.engine.fs = .endState → exec .readPacket s = .next { s with
      status := { s.status with pktValid := true, result := 0, busy := false }
      engine := { eng := .idle, ctx := .cmd, fs := .idle } })

/-- R243, R244, R258: a state that reads one byte takes it when one waits (the two size bytes, most significant first,
and the first announcement byte), raises DataReadError when the budget is used up, and else stays, counting ticks. -/
def Obligations.OneByteReads : Prop :=
  ∀ s : State, s.engine.eng = .pk → (s.rd.act = true → s.rd.got = 0) →
    (∀ (b : Byte) (q : List Byte), s.fifo.rxq = b :: q →
      (s.engine.fs = .readSizeHigh → exec .readPacket s = .next { s with
        fifo.rxq := q, rd := { act := false, got := 1, budget := budgetInStep s }
        work.hb := b, engine.fs := .readSizeLow }) ∧
      (s.engine.fs = .readSizeLow → exec .readPacket s = .next { s with
        fifo.rxq := q, rd := { act := false, got := 1, budget := budgetInStep s }
        work := { s.work with
          blocks := s.work.hb ++ b, size := BitVec.ofNat 24 (256 * (256 * s.work.hb.toNat + b.toNat)) }
        engine.fs := .readFormat }) ∧
      (s.engine.fs = .readRebootByteHigh → exec .readPacket s = .next { s with
        fifo.rxq := q, rd := { act := false, got := 1, budget := budgetInStep s }
        work.hb := b, engine.fs := .readRebootByteLow })) ∧
    (s.engine.fs ∈ [Framer.readSizeHigh, .readSizeLow, .readFormat, .readRebootByteHigh, .readRebootByteLow] →
      s.fifo.rxq = [] →
      (budgetInStep s = 0 → exec .readPacket s = .next { s with
        rd := { act := false, got := 0, budget := 0 }, wr.act := false, dly.act := false
        status := { s.status with result := 5, lastErr := 5, busy := false }
        engine := { eng := .idle, ctx := .cmd, fs := .idle } }) ∧
      (budgetInStep s ≠ 0 → exec .readPacket s = .next { s with
        rd := { act := true, got := 0, budget := if tick s then budgetInStep s - 1 else budgetInStep s } }))

/-- R249 to R253: in `ReadData`, a sub-read, its first step included, that finds a byte waiting stores it
at `PKT_MEM[i + j + rd_got]`, every other byte of memory stays, and: an unfinished sub-read goes on, or, its budget used
up, counts its bytes in `j` (`fail_on_zero`) or raises DataReadError (`fail_on_short`); a full chunk is counted in `i`
and goes to `DoReset` when a threshold is set; the final partial chunk goes to `End`. With no sub-read in progress and
nothing left, the framer goes to `End` and reads nothing. -/
def Obligations.PacketBytesAreStored : Prop :=
  (∀ (s : State) (b : Byte) (q : List Byte), memoryCanonical s → s.engine.eng = .pk → s.engine.fs = .readData →
    s.fifo.rxq = b :: q → (gotInStep s).toNat < subReadLength s → s.work.j.toNat < 1024 →
    s.work.i.toNat + s.work.j.toNat ≤ s.work.size.toNat → s.work.size.toNat ≤ s.cfg.pktMemBytes →
    ∃ m,
      ((gotInStep s).toNat + 1 < subReadLength s → budgetInStep s ≠ 0 → exec .readPacket s = .next { s with
        mem := m, fifo.rxq := q
        rd := { act := true, got := gotInStep s + 1
                budget := if tick s then budgetInStep s - 1 else budgetInStep s } }) ∧
      ((gotInStep s).toNat + 1 < subReadLength s → budgetInStep s = 0 → s.cfg.chunkReadPolicy = .failOnZero →
        exec .readPacket s = .next { s with
          mem := m, fifo.rxq := q, rd := { act := false, got := gotInStep s + 1, budget := budgetInStep s }
          work.j := BitVec.ofNat 11 (s.work.j.toNat + ((gotInStep s).toNat + 1)) }) ∧
      ((gotInStep s).toNat + 1 < subReadLength s → budgetInStep s = 0 → s.cfg.chunkReadPolicy = .failOnShort →
        exec .readPacket s = .next { s with
          mem := m, fifo.rxq := q, rd := { act := false, got := gotInStep s + 1, budget := budgetInStep s }
          wr.act := false, dly.act := false
          status := { s.status with result := 5, lastErr := 5, busy := false }
          engine := { eng := .idle, ctx := .cmd, fs := .idle } }) ∧
      ((gotInStep s).toNat + 1 = subReadLength s → s.work.j.toNat + ((gotInStep s).toNat + 1) = 1024 →
        exec .readPacket s = .next { s with
          mem := m, fifo.rxq := q, rd := { act := false, got := gotInStep s + 1, budget := budgetInStep s }
          work := { s.work with i := s.work.i + 1024, j := 0 }
          engine.fs := if s.session.rbyte ≠ 0 then .doReset
            else if s.work.i + 1024 = s.work.size then .endState else .readData }) ∧
      ((gotInStep s).toNat + 1 = subReadLength s → s.work.j.toNat + ((gotInStep s).toNat + 1) ≠ 1024 →
        exec .readPacket s = .next { s with
          mem := m, fifo.rxq := q, rd := { act := false, got := gotInStep s + 1, budget := budgetInStep s }
          work := { s.work with i := s.work.size, j := 0 }, engine.fs := .endState }) ∧
      memRead .pkt (s.work.i.toNat + s.work.j.toNat + (gotInStep s).toNat) { s with mem := m } = b ∧
      ∀ id a, (id ≠ .pkt ∨ a ≠ s.work.i.toNat + s.work.j.toNat + (gotInStep s).toNat) →
        memRead id a { s with mem := m } = memRead id a s) ∧
  (∀ s : State, s.engine.eng = .pk → s.engine.fs = .readData → s.rd.act = false →
    s.work.i.toNat + s.work.j.toNat = s.work.size.toNat →
    exec .readPacket s = .next { s with engine.fs := .endState })

/-- R250, R251: a sub-read, its first step included, that finds no byte waiting: with the budget used up, one that
got no byte raises DataReadError, and one that got some counts them in `j` under `fail_on_zero` and raises
DataReadError under `fail_on_short`; with budget left it waits. -/
def Obligations.ShortSubReads : Prop :=
  ∀ s : State, s.engine.eng = .pk → s.engine.fs = .readData → s.fifo.rxq = [] →
    (gotInStep s).toNat < subReadLength s →
    (budgetInStep s = 0 → (gotInStep s = 0 ∨ s.cfg.chunkReadPolicy = .failOnShort) →
      exec .readPacket s = .next { s with
        rd := { act := false, got := gotInStep s, budget := 0 }, wr.act := false, dly.act := false
        status := { s.status with result := 5, lastErr := 5, busy := false }
        engine := { eng := .idle, ctx := .cmd, fs := .idle } }) ∧
    (budgetInStep s = 0 → gotInStep s ≠ 0 → s.cfg.chunkReadPolicy = .failOnZero →
      exec .readPacket s = .next { s with
        rd := { act := false, got := gotInStep s, budget := 0 }
        work.j := BitVec.ofNat 11 (s.work.j.toNat + (gotInStep s).toNat) }) ∧
    (budgetInStep s ≠ 0 → exec .readPacket s = .next { s with
      rd := { act := true, got := gotInStep s, budget := if tick s then budgetInStep s - 1 else budgetInStep s } })

/-- R254, R256, R257: `DoReset` counts the chunk and starts recovery exactly when the count has reached the
threshold; `REC_CHECK` goes on only with a loaded image; `REC_WAIT` waits `LONG_DELAY` ticks (its first step loads the
delay and counts its tick; with `LONG_DELAY` = 0 it ends there), and then the framer resumes. -/
def Obligations.RecoveryStates : Prop :=
  ∀ s : State,
    (s.engine.eng = .pk → s.engine.fs = .doReset → s.session.rbyte ≤ s.session.rcount + 1 →
      exec .readPacket s = .next { s with
        session.rcount := s.session.rcount + 1, latched.rmode := 0
        engine := { eng := .rsMode, ctx := .recovery, fs := .doReset } }) ∧
    (s.engine.eng = .pk → s.engine.fs = .doReset → s.session.rcount + 1 < s.session.rbyte →
      exec .readPacket s = .next { s with
        session.rcount := s.session.rcount + 1, engine.fs := .readData }) ∧
    (s.engine.eng = .recCheck → s.status.pluginValid = true →
      exec .readPacket s = .next { s with engine.eng := .ldHdr }) ∧
    (s.engine.eng = .recCheck → s.status.pluginValid = false → exec .readPacket s = .next { s with
      rd.act := false, wr.act := false, dly.act := false
      status := { s.status with result := 6, lastErr := 6, busy := false }
      engine := { eng := .idle, ctx := .cmd, fs := .idle } }) ∧
    (s.engine.eng = .recWait →
      ((delayInStep s.cfg.longDelay s).cnt = 0 → exec .readPacket s = .next { s with
        dly := { act := false, cnt := 0 }, engine := { eng := .pk, ctx := .cmd, fs := .readRebootByteHigh } }) ∧
      ((delayInStep s.cfg.longDelay s).cnt ≠ 0 → tick s = true → exec .readPacket s = .next { s with
        dly := { act := true, cnt := (delayInStep s.cfg.longDelay s).cnt - 1 } }) ∧
      ((delayInStep s.cfg.longDelay s).cnt ≠ 0 → tick s = false → exec .readPacket s = .next { s with
        dly := delayInStep s.cfg.longDelay s }))

/-- R268: no state of recovery changes the framer registers, so the payload resumes where it left off. -/
def Obligations.RecoveryKeepsPosition : Prop :=
  ∀ s t : State, isRecoveryState s.engine.eng = true → exec .readPacket s = .next t → t.work = s.work

/-! ### What instructions may write -/

/-- R24: an instruction makes `PKT_VALID` 1 only in the `End` state of READ_PACKET. -/
def Obligations.OnlyEndExposesThePacket : Prop :=
  ∀ (i : Instr) (s t : State), exec i s = .next t → s.status.pktValid = false → t.status.pktValid = true →
    i = .readPacket ∧ s.engine.eng = .pk ∧ s.engine.fs = .endState

/-- R59, R178, R180: an instruction writes `MODE` only in `RS_MODE`, `DTR` only in `RS_ASSERT` and `RS_DEASSERT`,
and `AUX_OUT` never. -/
def Obligations.LinesWrittenOnlyByResetStates : Prop :=
  ∀ (i : Instr) (s t : State), exec i s = .next t →
    t.lines.auxOut = s.lines.auxOut ∧ (s.engine.eng ≠ .rsMode → t.lines.mode = s.lines.mode) ∧
    (s.engine.eng ≠ .rsAssert → s.engine.eng ≠ .rsDeassert → t.lines.dtr = s.lines.dtr)

/-- R32, R40, R41, R52, R216: no instruction writes `TIMEOUT`, `PKT_PTR`, `DBUF_PTR` or a `UV` register, and none but
IMG_CLEAR writes `IMG_PTR` or a byte of `IMG` (the patch is never written into it). -/
def Obligations.EngineNeverWritesHostRegisters : Prop :=
  ∀ (i : Instr) (s t : State), exec i s = .next t →
    t.host.timeout = s.host.timeout ∧ t.host.pktPtr = s.host.pktPtr ∧ t.host.dbufPtr = s.host.dbufPtr ∧
    t.host.uv = s.host.uv ∧ (i ≠ .imgClear → t.host.imgPtr = s.host.imgPtr ∧ t.mem.img = s.mem.img)

/-- R30, R31, R301: an instruction leaves `RESULT` and `LAST_ERR`, or completes with `RESULT` = 0 and `LAST_ERR`
kept, or aborts with the same reported code, 3 to 10, in both and the block idle. -/
def Obligations.ResultAndLastError : Prop :=
  ∀ (i : Instr) (s t : State), exec i s = .next t →
    (t.status.result = s.status.result ∧ t.status.lastErr = s.status.lastErr) ∨
    (t.status.result = 0 ∧ t.status.lastErr = s.status.lastErr ∧ t.status.busy = false) ∨
    (t.status.lastErr = t.status.result ∧ 3 ≤ t.status.result.toNat ∧ t.status.result.toNat ≤ 10 ∧
      t.status.busy = false ∧ t.engine.eng = .idle)

/-! ### Invariants that every step keeps -/

/-- Reset meets every invariant below, for every parameter value. -/
def Obligations.ResetIsConsistent : Prop :=
  ∀ p : Params, memoryCanonical (State.resetWith p) ∧ fifosBounded (State.resetWith p) ∧
    thresholdBounded (State.resetWith p) ∧ packetHidden (State.resetWith p) ∧ WriteConsistent (State.resetWith p) ∧
    FramerConsistent (State.resetWith p)

/-- R52 to R54, R60: every step keeps every memory in canonical form, so no byte stands outside its memory. -/
def Obligations.StepKeepsMemoryCanonical : Prop :=
  ∀ s t : State, memoryCanonical s → step s = .next t → memoryCanonical t

/-- R57: every step keeps both FIFOs within their depths. -/
def Obligations.StepKeepsFifosBounded : Prop :=
  ∀ s t : State, fifosBounded s → step s = .next t → fifosBounded t

/-- R34, R265: every step keeps `rbyte` at most 16383, and no packet is held while READ_PACKET is in progress. -/
def Obligations.StepKeepsThresholdAndHiding : Prop :=
  (∀ s t : State, thresholdBounded s → step s = .next t → thresholdBounded t) ∧
  (∀ s t : State, packetHidden s → step s = .next t → packetHidden t)

/-- R36, R37, R202, R327: from a consistent engine every step answers a next state, whose engine is consistent: the
block never stops, and never leaves the states the spec gives the command in progress. -/
def Obligations.ConsistentEngineNeverStops : Prop :=
  ∀ s : State, EngineConsistent s → ∃ t, step s = .next t ∧ EngineConsistent t

/-- R57: every step keeps `txq` empty but for the write in progress; so it is empty whenever the engine is idle. -/
def Obligations.StepKeepsWritesConsistent : Prop :=
  (∀ s t : State, WriteConsistent s → step s = .next t → WriteConsistent t) ∧
  (∀ s : State, WriteConsistent s → s.engine.eng = .idle → s.fifo.txq = [])

/-- R38, R57, R268: every step keeps the framer registers and the read in progress consistent: `j` below 1024,
`i + j` at most `size`, `rd_got` below the request, recovery only at a chunk boundary. -/
def Obligations.StepKeepsFramerConsistent : Prop :=
  ∀ s t : State, FramerConsistent s → step s = .next t → FramerConsistent t
end

