-- ==== Sys2Proof/Laws/Memory.lean ====
section
/-! SUPPORT. The laws of the block memories: read after write, and that every write keeps the canonical form. -/

namespace Sys2Proof.Machine

/-! ### Finding a cell -/

@[simp] theorem find_put_same (m : Memory) (a : Nat) (v : Byte) : Memory.find (Memory.put m a v) a = some v := by
  induction m with
  | nil => simp [Memory.put, Memory.find]
  | cons c m ih =>
    obtain ⟨x, b⟩ := c
    by_cases h1 : a < x
    · simp [Memory.put, Memory.find, h1]
    · by_cases h2 : a = x
      · simp [Memory.put, Memory.find, h2]
      · simp [Memory.put, Memory.find, h1, h2, Ne.symm h2, ih]

@[simp] theorem find_put_other (m : Memory) (a a' : Nat) (v : Byte) (h : a ≠ a') :
    Memory.find (Memory.put m a v) a' = Memory.find m a' := by
  induction m with
  | nil => simp [Memory.put, Memory.find, h]
  | cons c m ih =>
    obtain ⟨x, b⟩ := c
    by_cases h1 : a < x
    · simp [Memory.put, Memory.find, h1, h]
    · by_cases h2 : a = x
      · subst h2; simp [Memory.put, Memory.find, h]
      · simp [Memory.put, Memory.find, h1, h2, ih]

@[simp] theorem find_erase_other (m : Memory) (a a' : Nat) (h : a ≠ a') :
    Memory.find (Memory.erase m a) a' = Memory.find m a' := by
  induction m with
  | nil => rfl
  | cons c m ih =>
    obtain ⟨x, b⟩ := c
    by_cases h2 : x = a
    · simp [Memory.erase, Memory.find, h2, h]
    · simp [Memory.erase, Memory.find, h2, ih]

/-! ### The order of addresses -/

/-- A sorted list, one cell taken off: the rest is sorted and lies above it. -/
theorem sorted_cons (x : Nat) (b : Byte) (m : Memory) :
    Memory.sorted ((x, b) :: m) = true ↔ Memory.sorted m = true ∧ ∀ c ∈ m, x < c.1 := by
  induction m generalizing x b with
  | nil => simp [Memory.sorted]
  | cons c m ih =>
    obtain ⟨y, d⟩ := c
    simp only [Memory.sorted, Bool.and_eq_true, decide_eq_true_eq, List.mem_cons, forall_eq_or_imp]
    constructor
    · rintro ⟨h1, h2⟩
      exact ⟨h2, h1, fun c hc => lt_trans h1 (((ih y d).mp h2).2 c hc)⟩
    · rintro ⟨h1, h2, _⟩
      exact ⟨h2, h1⟩

/-- An address below every listed one is not listed. -/
theorem find_eq_none (m : Memory) (a : Nat) (h : ∀ c ∈ m, c.1 ≠ a) : Memory.find m a = none := by
  induction m with
  | nil => rfl
  | cons c m ih =>
    obtain ⟨x, b⟩ := c
    have hx : x ≠ a := h (x, b) (by simp)
    simp only [Memory.find, hx, if_false]
    exact ih fun c hc => h c (by simp [hc])

/-- The cells of a list after a `put` are the new cell and old cells. -/
theorem mem_put (m : Memory) (a : Nat) (v : Byte) (c : Host.Cell) (h : c ∈ Memory.put m a v) :
    c = (a, v) ∨ c ∈ m := by
  induction m with
  | nil => simpa [Memory.put] using h
  | cons d m ih =>
    obtain ⟨x, b⟩ := d
    simp only [Memory.put] at h
    split at h
    · simpa using h
    · split at h
      · rcases List.mem_cons.mp h with h | h
        · exact .inl h
        · exact .inr (by simp [h])
      · rcases List.mem_cons.mp h with h | h
        · exact .inr (by simp [h])
        · rcases ih h with h | h
          · exact .inl h
          · exact .inr (by simp [h])

/-- The cells of a list after an `erase` are old cells. -/
theorem mem_erase (m : Memory) (a : Nat) (c : Host.Cell) (h : c ∈ Memory.erase m a) : c ∈ m := by
  induction m with
  | nil => simp [Memory.erase] at h
  | cons d m ih =>
    obtain ⟨x, b⟩ := d
    simp only [Memory.erase] at h
    split at h
    · simp [h]
    · rcases List.mem_cons.mp h with h | h
      · simp [h]
      · simp [ih h]

theorem sorted_put (m : Memory) (a : Nat) (v : Byte) (h : Memory.sorted m = true) :
    Memory.sorted (Memory.put m a v) = true := by
  induction m with
  | nil => rfl
  | cons d m ih =>
    obtain ⟨x, b⟩ := d
    have hs := (sorted_cons x b m).mp h
    simp only [Memory.put]
    split
    · next h1 =>
      refine (sorted_cons _ _ _).mpr ⟨h, ?_⟩
      simp only [List.mem_cons, forall_eq_or_imp]
      exact ⟨h1, fun c hc => lt_trans h1 (hs.2 c hc)⟩
    · split
      · next h2 =>
        subst h2
        exact (sorted_cons _ _ _).mpr hs
      · next h1 h2 =>
        refine (sorted_cons _ _ _).mpr ⟨ih hs.1, fun c hc => ?_⟩
        rcases mem_put _ _ _ _ hc with rfl | hc
        · exact lt_of_le_of_ne (not_lt.mp h1) (Ne.symm h2)
        · exact hs.2 c hc

theorem sorted_erase (m : Memory) (a : Nat) (h : Memory.sorted m = true) :
    Memory.sorted (Memory.erase m a) = true := by
  induction m with
  | nil => rfl
  | cons d m ih =>
    obtain ⟨x, b⟩ := d
    have hs := (sorted_cons x b m).mp h
    simp only [Memory.erase]
    split
    · exact hs.1
    · exact (sorted_cons _ _ _).mpr ⟨ih hs.1, fun c hc => hs.2 c (mem_erase _ _ _ hc)⟩

theorem find_erase_same (m : Memory) (a : Nat) (h : Memory.sorted m = true) :
    Memory.find (Memory.erase m a) a = none := by
  induction m with
  | nil => rfl
  | cons d m ih =>
    obtain ⟨x, b⟩ := d
    have hs := (sorted_cons x b m).mp h
    simp only [Memory.erase]
    split
    · next hx =>
      subst hx
      exact find_eq_none _ _ fun c hc => (hs.2 c hc).ne'
    · next hx => simp [Memory.find, hx, ih hs.1]

/-! ### The canonical form is kept -/

/-- `Memory.store` keeps the canonical form. -/
theorem store_wf (dflt : Option Byte) (n : Nat) (m : Memory) (a : Nat) (v : Byte) (ha : a < n)
    (h : Memory.wf dflt n m = true) : Memory.wf dflt n (Memory.store dflt m a v) = true := by
  simp only [Memory.wf, Bool.and_eq_true, List.all_eq_true, decide_eq_true_eq] at h ⊢
  obtain ⟨hs, hc⟩ := h
  unfold Memory.store
  split
  · exact ⟨sorted_erase _ _ hs, fun c hm => hc c (mem_erase _ _ _ hm)⟩
  · next hv =>
    refine ⟨sorted_put _ _ _ hs, fun c hm => ?_⟩
    rcases mem_put _ _ _ _ hm with rfl | hm
    · exact ⟨ha, hv⟩
    · exact hc c hm

/-- Every memory write keeps every memory in canonical form. -/
theorem memWrite_wf (id : MemId) (a : Nat) (v : Byte) (s : State) (h : s.mem.wf s.cfg = true) :
    (memWrite id a v s).mem.wf s.cfg = true := by
  unfold memWrite
  split
  · next ha =>
    simp only [Memories.wf, Bool.and_eq_true] at h ⊢
    obtain ⟨⟨hi, hp⟩, hd⟩ := h
    cases id
    · exact ⟨⟨store_wf _ _ _ _ _ ha hi, hp⟩, hd⟩
    · exact ⟨⟨hi, store_wf _ _ _ _ _ ha hp⟩, hd⟩
    · exact ⟨⟨hi, hp⟩, store_wf _ _ _ _ _ ha hd⟩
  · exact h

/-- The reset memories are in canonical form, for every parameter value. -/
theorem reset_mem_wf (p : Params) : (State.resetWith p).mem.wf p = true := by
  simp [Memories.wf, State.resetWith, Memory.wf, Memory.sorted]

/-! ### Reading what was written -/

@[simp] theorem of_set_same (m : Memories) (id : MemId) (x : Memory) : (m.set id x).of id = x := by
  cases id <;> rfl

@[simp] theorem of_set_other (m : Memories) (id id' : MemId) (x : Memory) (h : id ≠ id') :
    (m.set id x).of id' = m.of id' := by
  cases id <;> cases id' <;> first | rfl | exact absurd rfl h

/-- The memory named `id` of canonical memories is in canonical form. -/
theorem wf_of (p : Params) (m : Memories) (id : MemId) (h : m.wf p = true) :
    Memory.wf (unlisted id) (memBytes p id) (m.of id) = true := by
  simp only [Memories.wf, Bool.and_eq_true] at h
  cases id
  · exact h.1.1
  · exact h.1.2
  · exact h.2

/-- A byte written inside a memory reads back. -/
theorem memRead_memWrite_same (id : MemId) (a : Nat) (v : Byte) (s : State) (h : s.mem.wf s.cfg = true)
    (ha : a < memBytes s.cfg id) : memRead id a (memWrite id a v s) = v := by
  have hw := wf_of _ _ id h
  simp only [Memory.wf, Bool.and_eq_true] at hw
  unfold memWrite memRead
  simp only [ha, if_true, of_set_same]
  unfold Memory.store
  by_cases hd : unlisted id = some v
  · simp [hd, find_erase_same _ _ hw.1]
  · simp [hd]

/-- A write leaves every other byte of its memory, and every other memory, as it was. -/
theorem memRead_memWrite_other (id id' : MemId) (a a' : Nat) (v : Byte) (s : State) (h : id ≠ id' ∨ a ≠ a') :
    memRead id' a' (memWrite id a v s) = memRead id' a' s := by
  unfold memWrite
  split
  · unfold memRead
    by_cases hid : id = id'
    · subst hid
      have ha : a ≠ a' := h.resolve_left (by simp)
      have hf : Memory.find (Memory.store (unlisted id) (s.mem.of id) a v) a' = Memory.find (s.mem.of id) a' := by
        unfold Memory.store; split <;> simp [ha]
      simp only [of_set_same, hf]
    · simp only [of_set_other _ _ _ _ hid]
  · rfl

end Sys2Proof.Machine
end

