-- ==== Sys2Proof/Laws/State.lean ====
section
/-! SUPPORT. One lemma per field per named update of the state, so that no later proof unfolds an update. -/

namespace Sys2Proof.Machine

variable (s : State)

/-! ### `gotoEng` -/

@[simp] theorem gotoEng_cfg (e : Eng) : (gotoEng e s).cfg = s.cfg := rfl
@[simp] theorem gotoEng_status (e : Eng) : (gotoEng e s).status = s.status := rfl
@[simp] theorem gotoEng_lines (e : Eng) : (gotoEng e s).lines = s.lines := rfl
@[simp] theorem gotoEng_session (e : Eng) : (gotoEng e s).session = s.session := rfl
@[simp] theorem gotoEng_engine (e : Eng) : (gotoEng e s).engine = { s.engine with eng := e } := rfl
@[simp] theorem gotoEng_work (e : Eng) : (gotoEng e s).work = s.work := rfl
@[simp] theorem gotoEng_host (e : Eng) : (gotoEng e s).host = s.host := rfl
@[simp] theorem gotoEng_rd (e : Eng) : (gotoEng e s).rd = s.rd := rfl
@[simp] theorem gotoEng_wr (e : Eng) : (gotoEng e s).wr = s.wr := rfl
@[simp] theorem gotoEng_dly (e : Eng) : (gotoEng e s).dly = s.dly := rfl
@[simp] theorem gotoEng_latched (e : Eng) : (gotoEng e s).latched = s.latched := rfl
@[simp] theorem gotoEng_fifo (e : Eng) : (gotoEng e s).fifo = s.fifo := rfl
@[simp] theorem gotoEng_tx (e : Eng) : (gotoEng e s).tx = s.tx := rfl
@[simp] theorem gotoEng_tickCnt (e : Eng) : (gotoEng e s).tickCnt = s.tickCnt := rfl
@[simp] theorem gotoEng_sync (e : Eng) : (gotoEng e s).sync = s.sync := rfl
@[simp] theorem gotoEng_mem (e : Eng) : (gotoEng e s).mem = s.mem := rfl
@[simp] theorem gotoEng_bitRx (e : Eng) : (gotoEng e s).bitRx = s.bitRx := rfl
@[simp] theorem gotoEng_env (e : Eng) : (gotoEng e s).env = s.env := rfl
@[simp] theorem gotoEng_draws (e : Eng) : (gotoEng e s).draws = s.draws := rfl
@[simp] theorem gotoEng_epoch (e : Eng) : (gotoEng e s).epoch = s.epoch := rfl
@[simp] theorem gotoEng_out (e : Eng) : (gotoEng e s).out = s.out := rfl

/-! ### `gotoFs` -/

@[simp] theorem gotoFs_cfg (f : Framer) : (gotoFs f s).cfg = s.cfg := rfl
@[simp] theorem gotoFs_status (f : Framer) : (gotoFs f s).status = s.status := rfl
@[simp] theorem gotoFs_lines (f : Framer) : (gotoFs f s).lines = s.lines := rfl
@[simp] theorem gotoFs_session (f : Framer) : (gotoFs f s).session = s.session := rfl
@[simp] theorem gotoFs_engine (f : Framer) : (gotoFs f s).engine = { s.engine with fs := f } := rfl
@[simp] theorem gotoFs_work (f : Framer) : (gotoFs f s).work = s.work := rfl
@[simp] theorem gotoFs_host (f : Framer) : (gotoFs f s).host = s.host := rfl
@[simp] theorem gotoFs_rd (f : Framer) : (gotoFs f s).rd = s.rd := rfl
@[simp] theorem gotoFs_wr (f : Framer) : (gotoFs f s).wr = s.wr := rfl
@[simp] theorem gotoFs_dly (f : Framer) : (gotoFs f s).dly = s.dly := rfl
@[simp] theorem gotoFs_latched (f : Framer) : (gotoFs f s).latched = s.latched := rfl
@[simp] theorem gotoFs_fifo (f : Framer) : (gotoFs f s).fifo = s.fifo := rfl
@[simp] theorem gotoFs_tx (f : Framer) : (gotoFs f s).tx = s.tx := rfl
@[simp] theorem gotoFs_tickCnt (f : Framer) : (gotoFs f s).tickCnt = s.tickCnt := rfl
@[simp] theorem gotoFs_sync (f : Framer) : (gotoFs f s).sync = s.sync := rfl
@[simp] theorem gotoFs_mem (f : Framer) : (gotoFs f s).mem = s.mem := rfl
@[simp] theorem gotoFs_bitRx (f : Framer) : (gotoFs f s).bitRx = s.bitRx := rfl
@[simp] theorem gotoFs_env (f : Framer) : (gotoFs f s).env = s.env := rfl
@[simp] theorem gotoFs_draws (f : Framer) : (gotoFs f s).draws = s.draws := rfl
@[simp] theorem gotoFs_epoch (f : Framer) : (gotoFs f s).epoch = s.epoch := rfl
@[simp] theorem gotoFs_out (f : Framer) : (gotoFs f s).out = s.out := rfl

/-! ### `complete` -/

@[simp] theorem complete_cfg : (complete s).cfg = s.cfg := rfl
@[simp] theorem complete_status : (complete s).status = { s.status with result := 0, busy := false } := rfl
@[simp] theorem complete_lines : (complete s).lines = s.lines := rfl
@[simp] theorem complete_session : (complete s).session = s.session := rfl
@[simp] theorem complete_engine : (complete s).engine = idleEngine := rfl
@[simp] theorem complete_work : (complete s).work = s.work := rfl
@[simp] theorem complete_host : (complete s).host = s.host := rfl
@[simp] theorem complete_rd : (complete s).rd = s.rd := rfl
@[simp] theorem complete_wr : (complete s).wr = s.wr := rfl
@[simp] theorem complete_dly : (complete s).dly = s.dly := rfl
@[simp] theorem complete_latched : (complete s).latched = s.latched := rfl
@[simp] theorem complete_fifo : (complete s).fifo = s.fifo := rfl
@[simp] theorem complete_tx : (complete s).tx = s.tx := rfl
@[simp] theorem complete_tickCnt : (complete s).tickCnt = s.tickCnt := rfl
@[simp] theorem complete_sync : (complete s).sync = s.sync := rfl
@[simp] theorem complete_mem : (complete s).mem = s.mem := rfl
@[simp] theorem complete_bitRx : (complete s).bitRx = s.bitRx := rfl
@[simp] theorem complete_env : (complete s).env = s.env := rfl
@[simp] theorem complete_draws : (complete s).draws = s.draws := rfl
@[simp] theorem complete_epoch : (complete s).epoch = s.epoch := rfl
@[simp] theorem complete_out : (complete s).out = s.out := rfl

/-! ### `raiseError` -/

@[simp] theorem raiseError_cfg (e : ErrKind) : (raiseError e s).cfg = s.cfg := rfl
@[simp] theorem raiseError_status (e : ErrKind) : (raiseError e s).status = { s.status with result := errCode e, lastErr := errCode e, busy := false } := rfl
@[simp] theorem raiseError_lines (e : ErrKind) : (raiseError e s).lines = s.lines := rfl
@[simp] theorem raiseError_session (e : ErrKind) : (raiseError e s).session = s.session := rfl
@[simp] theorem raiseError_engine (e : ErrKind) : (raiseError e s).engine = idleEngine := rfl
@[simp] theorem raiseError_work (e : ErrKind) : (raiseError e s).work = s.work := rfl
@[simp] theorem raiseError_host (e : ErrKind) : (raiseError e s).host = s.host := rfl
@[simp] theorem raiseError_rd (e : ErrKind) : (raiseError e s).rd = { s.rd with act := false } := rfl
@[simp] theorem raiseError_wr (e : ErrKind) : (raiseError e s).wr = { s.wr with act := false } := rfl
@[simp] theorem raiseError_dly (e : ErrKind) : (raiseError e s).dly = { s.dly with act := false } := rfl
@[simp] theorem raiseError_latched (e : ErrKind) : (raiseError e s).latched = s.latched := rfl
@[simp] theorem raiseError_fifo (e : ErrKind) : (raiseError e s).fifo = s.fifo := rfl
@[simp] theorem raiseError_tx (e : ErrKind) : (raiseError e s).tx = s.tx := rfl
@[simp] theorem raiseError_tickCnt (e : ErrKind) : (raiseError e s).tickCnt = s.tickCnt := rfl
@[simp] theorem raiseError_sync (e : ErrKind) : (raiseError e s).sync = s.sync := rfl
@[simp] theorem raiseError_mem (e : ErrKind) : (raiseError e s).mem = s.mem := rfl
@[simp] theorem raiseError_bitRx (e : ErrKind) : (raiseError e s).bitRx = s.bitRx := rfl
@[simp] theorem raiseError_env (e : ErrKind) : (raiseError e s).env = s.env := rfl
@[simp] theorem raiseError_draws (e : ErrKind) : (raiseError e s).draws = s.draws := rfl
@[simp] theorem raiseError_epoch (e : ErrKind) : (raiseError e s).epoch = s.epoch := rfl
@[simp] theorem raiseError_out (e : ErrKind) : (raiseError e s).out = s.out := rfl

/-! ### `flushFifos` -/

@[simp] theorem flushFifos_cfg : (flushFifos s).cfg = s.cfg := rfl
@[simp] theorem flushFifos_status : (flushFifos s).status = s.status := rfl
@[simp] theorem flushFifos_lines : (flushFifos s).lines = s.lines := rfl
@[simp] theorem flushFifos_session : (flushFifos s).session = s.session := rfl
@[simp] theorem flushFifos_engine : (flushFifos s).engine = s.engine := rfl
@[simp] theorem flushFifos_work : (flushFifos s).work = s.work := rfl
@[simp] theorem flushFifos_host : (flushFifos s).host = s.host := rfl
@[simp] theorem flushFifos_rd : (flushFifos s).rd = s.rd := rfl
@[simp] theorem flushFifos_wr : (flushFifos s).wr = s.wr := rfl
@[simp] theorem flushFifos_dly : (flushFifos s).dly = s.dly := rfl
@[simp] theorem flushFifos_latched : (flushFifos s).latched = s.latched := rfl
@[simp] theorem flushFifos_fifo : (flushFifos s).fifo = { rxq := [], txq := [] } := rfl
@[simp] theorem flushFifos_tx : (flushFifos s).tx = s.tx := rfl
@[simp] theorem flushFifos_tickCnt : (flushFifos s).tickCnt = s.tickCnt := rfl
@[simp] theorem flushFifos_sync : (flushFifos s).sync = s.sync := rfl
@[simp] theorem flushFifos_mem : (flushFifos s).mem = s.mem := rfl
@[simp] theorem flushFifos_bitRx : (flushFifos s).bitRx = s.bitRx := rfl
@[simp] theorem flushFifos_env : (flushFifos s).env = s.env := rfl
@[simp] theorem flushFifos_draws : (flushFifos s).draws = s.draws := rfl
@[simp] theorem flushFifos_epoch : (flushFifos s).epoch = s.epoch := rfl
@[simp] theorem flushFifos_out : (flushFifos s).out = s.out := rfl

/-! ### `setXfer` -/

@[simp] theorem setXfer_cfg (n : BitVec 16) : (setXfer n s).cfg = s.cfg := rfl
@[simp] theorem setXfer_status (n : BitVec 16) : (setXfer n s).status = s.status := rfl
@[simp] theorem setXfer_lines (n : BitVec 16) : (setXfer n s).lines = s.lines := rfl
@[simp] theorem setXfer_session (n : BitVec 16) : (setXfer n s).session = s.session := rfl
@[simp] theorem setXfer_engine (n : BitVec 16) : (setXfer n s).engine = s.engine := rfl
@[simp] theorem setXfer_work (n : BitVec 16) : (setXfer n s).work = s.work := rfl
@[simp] theorem setXfer_host (n : BitVec 16) : (setXfer n s).host = { s.host with xferCount := n } := rfl
@[simp] theorem setXfer_rd (n : BitVec 16) : (setXfer n s).rd = s.rd := rfl
@[simp] theorem setXfer_wr (n : BitVec 16) : (setXfer n s).wr = s.wr := rfl
@[simp] theorem setXfer_dly (n : BitVec 16) : (setXfer n s).dly = s.dly := rfl
@[simp] theorem setXfer_latched (n : BitVec 16) : (setXfer n s).latched = s.latched := rfl
@[simp] theorem setXfer_fifo (n : BitVec 16) : (setXfer n s).fifo = s.fifo := rfl
@[simp] theorem setXfer_tx (n : BitVec 16) : (setXfer n s).tx = s.tx := rfl
@[simp] theorem setXfer_tickCnt (n : BitVec 16) : (setXfer n s).tickCnt = s.tickCnt := rfl
@[simp] theorem setXfer_sync (n : BitVec 16) : (setXfer n s).sync = s.sync := rfl
@[simp] theorem setXfer_mem (n : BitVec 16) : (setXfer n s).mem = s.mem := rfl
@[simp] theorem setXfer_bitRx (n : BitVec 16) : (setXfer n s).bitRx = s.bitRx := rfl
@[simp] theorem setXfer_env (n : BitVec 16) : (setXfer n s).env = s.env := rfl
@[simp] theorem setXfer_draws (n : BitVec 16) : (setXfer n s).draws = s.draws := rfl
@[simp] theorem setXfer_epoch (n : BitVec 16) : (setXfer n s).epoch = s.epoch := rfl
@[simp] theorem setXfer_out (n : BitVec 16) : (setXfer n s).out = s.out := rfl

/-! ### `headerRegs` -/

@[simp] theorem headerRegs_cfg (a b t : Byte) : (headerRegs a b t s).cfg = s.cfg := rfl
@[simp] theorem headerRegs_status (a b t : Byte) : (headerRegs a b t s).status = s.status := rfl
@[simp] theorem headerRegs_lines (a b t : Byte) : (headerRegs a b t s).lines = s.lines := rfl
@[simp] theorem headerRegs_session (a b t : Byte) : (headerRegs a b t s).session = s.session := rfl
@[simp] theorem headerRegs_engine (a b t : Byte) : (headerRegs a b t s).engine = s.engine := rfl
@[simp] theorem headerRegs_work (a b t : Byte) : (headerRegs a b t s).work = { s.work with blocks := sizeField a b, size := packetSize (sizeField a b), ftype := t } := rfl
@[simp] theorem headerRegs_host (a b t : Byte) : (headerRegs a b t s).host = s.host := rfl
@[simp] theorem headerRegs_rd (a b t : Byte) : (headerRegs a b t s).rd = s.rd := rfl
@[simp] theorem headerRegs_wr (a b t : Byte) : (headerRegs a b t s).wr = s.wr := rfl
@[simp] theorem headerRegs_dly (a b t : Byte) : (headerRegs a b t s).dly = s.dly := rfl
@[simp] theorem headerRegs_latched (a b t : Byte) : (headerRegs a b t s).latched = s.latched := rfl
@[simp] theorem headerRegs_fifo (a b t : Byte) : (headerRegs a b t s).fifo = s.fifo := rfl
@[simp] theorem headerRegs_tx (a b t : Byte) : (headerRegs a b t s).tx = s.tx := rfl
@[simp] theorem headerRegs_tickCnt (a b t : Byte) : (headerRegs a b t s).tickCnt = s.tickCnt := rfl
@[simp] theorem headerRegs_sync (a b t : Byte) : (headerRegs a b t s).sync = s.sync := rfl
@[simp] theorem headerRegs_mem (a b t : Byte) : (headerRegs a b t s).mem = s.mem := rfl
@[simp] theorem headerRegs_bitRx (a b t : Byte) : (headerRegs a b t s).bitRx = s.bitRx := rfl
@[simp] theorem headerRegs_env (a b t : Byte) : (headerRegs a b t s).env = s.env := rfl
@[simp] theorem headerRegs_draws (a b t : Byte) : (headerRegs a b t s).draws = s.draws := rfl
@[simp] theorem headerRegs_epoch (a b t : Byte) : (headerRegs a b t s).epoch = s.epoch := rfl
@[simp] theorem headerRegs_out (a b t : Byte) : (headerRegs a b t s).out = s.out := rfl

/-! ### `memWrite` -/

/-- A memory write changes the memories only. -/
theorem memWrite_eq (id : MemId) (a : Nat) (v : Byte) :
    memWrite id a v s = { s with mem := (memWrite id a v s).mem } := by
  unfold memWrite; split <;> rfl

@[simp] theorem memWrite_cfg (id : MemId) (a : Nat) (v : Byte) : (memWrite id a v s).cfg = s.cfg := by
  rw [memWrite_eq]
@[simp] theorem memWrite_status (id : MemId) (a : Nat) (v : Byte) : (memWrite id a v s).status = s.status := by
  rw [memWrite_eq]
@[simp] theorem memWrite_lines (id : MemId) (a : Nat) (v : Byte) : (memWrite id a v s).lines = s.lines := by
  rw [memWrite_eq]
@[simp] theorem memWrite_session (id : MemId) (a : Nat) (v : Byte) : (memWrite id a v s).session = s.session := by
  rw [memWrite_eq]
@[simp] theorem memWrite_engine (id : MemId) (a : Nat) (v : Byte) : (memWrite id a v s).engine = s.engine := by
  rw [memWrite_eq]
@[simp] theorem memWrite_work (id : MemId) (a : Nat) (v : Byte) : (memWrite id a v s).work = s.work := by
  rw [memWrite_eq]
@[simp] theorem memWrite_host (id : MemId) (a : Nat) (v : Byte) : (memWrite id a v s).host = s.host := by
  rw [memWrite_eq]
@[simp] theorem memWrite_rd (id : MemId) (a : Nat) (v : Byte) : (memWrite id a v s).rd = s.rd := by
  rw [memWrite_eq]
@[simp] theorem memWrite_wr (id : MemId) (a : Nat) (v : Byte) : (memWrite id a v s).wr = s.wr := by
  rw [memWrite_eq]
@[simp] theorem memWrite_dly (id : MemId) (a : Nat) (v : Byte) : (memWrite id a v s).dly = s.dly := by
  rw [memWrite_eq]
@[simp] theorem memWrite_latched (id : MemId) (a : Nat) (v : Byte) : (memWrite id a v s).latched = s.latched := by
  rw [memWrite_eq]
@[simp] theorem memWrite_fifo (id : MemId) (a : Nat) (v : Byte) : (memWrite id a v s).fifo = s.fifo := by
  rw [memWrite_eq]
@[simp] theorem memWrite_tx (id : MemId) (a : Nat) (v : Byte) : (memWrite id a v s).tx = s.tx := by
  rw [memWrite_eq]
@[simp] theorem memWrite_tickCnt (id : MemId) (a : Nat) (v : Byte) : (memWrite id a v s).tickCnt = s.tickCnt := by
  rw [memWrite_eq]
@[simp] theorem memWrite_sync (id : MemId) (a : Nat) (v : Byte) : (memWrite id a v s).sync = s.sync := by
  rw [memWrite_eq]
@[simp] theorem memWrite_bitRx (id : MemId) (a : Nat) (v : Byte) : (memWrite id a v s).bitRx = s.bitRx := by
  rw [memWrite_eq]
@[simp] theorem memWrite_env (id : MemId) (a : Nat) (v : Byte) : (memWrite id a v s).env = s.env := by
  rw [memWrite_eq]
@[simp] theorem memWrite_draws (id : MemId) (a : Nat) (v : Byte) : (memWrite id a v s).draws = s.draws := by
  rw [memWrite_eq]
@[simp] theorem memWrite_epoch (id : MemId) (a : Nat) (v : Byte) : (memWrite id a v s).epoch = s.epoch := by
  rw [memWrite_eq]
@[simp] theorem memWrite_out (id : MemId) (a : Nat) (v : Byte) : (memWrite id a v s).out = s.out := by
  rw [memWrite_eq]

end Sys2Proof.Machine
end

