-- ==== Sys2Proof/Laws/Ops.lean ====
section
/-! SUPPORT. What each shared operation can do, said once: later proofs cite these instead of unfolding. -/

namespace Sys2Proof.Machine

/-! ### RD (R145) -/

/-- Starting a read touches the read registers only. -/
theorem readStart_eq (s : State) : readStart s = { s with rd := (readStart s).rd } := by
  unfold readStart; split <;> rfl

/-- A read in progress is not started again. -/
@[simp] theorem readStart_of_act (s : State) (h : s.rd.act = true) : readStart s = s := by simp [readStart, h]

/-- A new read has a fresh budget. -/
@[simp] theorem readStart_of_not_act (s : State) (h : s.rd.act = false) :
    readStart s = { s with rd := { act := true, got := 0, budget := s.host.timeout } } := by simp [readStart, h]

/-- Taking a byte: nothing, or the oldest byte of `rxq`, placed by `dst`. -/
theorem readTake_cases (dst : Nat → Byte → State → State) (r : Nat) (s : State) :
    readTake dst r s = (none, s) ∨
    ∃ b q, s.fifo.rxq = b :: q ∧ s.rd.got.toNat < r ∧
      readTake dst r s = (some b, dst s.rd.got.toNat b { s with fifo.rxq := q, rd.got := s.rd.got + 1 }) := by
  unfold readTake
  split
  · exact .inl rfl
  · next b q hq =>
    split
    · next hr => exact .inr ⟨b, q, hq, hr, rfl⟩
    · exact .inl rfl

/-- The end of a step of a read: complete, short, a tick counted, or nothing. -/
theorem readEnd_cases (r : Nat) (s : State) :
    (readEnd r s = (.done s.rd.got.toNat, { s with rd.act := false }) ∧ (s.rd.got.toNat = r ∨ s.rd.budget = 0)) ∨
    (s.rd.got.toNat ≠ r ∧ s.rd.budget ≠ 0 ∧
      (readEnd r s = (.pending, { s with rd.budget := s.rd.budget - 1 }) ∧ tick s = true ∨
        readEnd r s = (.pending, s) ∧ tick s = false)) := by
  unfold readEnd
  by_cases h1 : s.rd.got.toNat = r
  · exact .inl ⟨by simp [h1], .inl h1⟩
  · by_cases h2 : s.rd.budget = 0
    · exact .inl ⟨by simp [h1, h2], .inr h2⟩
    · refine .inr ⟨h1, h2, ?_⟩
      by_cases h3 : tick s = true
      · exact .inl ⟨by rw [if_neg h1, if_neg h2, if_pos h3], h3⟩
      · exact .inr ⟨by rw [if_neg h1, if_neg h2, if_neg h3], by simpa using h3⟩

/-- The end of a step of a read touches the read registers only. -/
theorem readEnd_eq (r : Nat) (s : State) : (readEnd r s).2 = { s with rd := (readEnd r s).2.rd } := by
  rcases readEnd_cases r s with ⟨h, _⟩ | ⟨_, _, ⟨h, _⟩ | ⟨h, _⟩⟩ <;> rw [h]

/-- The three parts of a logical read. -/
theorem logicalRead_eq (dst : Nat → Byte → State → State) (r : Nat) (s : State) :
    logicalRead dst r s =
      { result := (readEnd r (readTake dst r (readStart s)).2).1
        popped := (readTake dst r (readStart s)).1
        state := (readEnd r (readTake dst r (readStart s)).2).2 } := rfl

/-- A one-byte state: pending, the byte's action, or DataReadError. -/
theorem readOneByte_cases (got : Byte → State → State) (s : State) :
    readOneByte got s = (logicalRead noStore 1 s).state ∨
    (∃ b, (logicalRead noStore 1 s).popped = some b ∧ readOneByte got s = got b (logicalRead noStore 1 s).state) ∨
    readOneByte got s = raiseError .dataRead (logicalRead noStore 1 s).state := by
  unfold readOneByte
  simp only
  split
  · exact .inl rfl
  · next b _ hb => exact .inr (.inl ⟨b, hb, rfl⟩)
  · exact .inr (.inr rfl)

/-! ### WR (R147) -/

/-- Starting a write touches the write registers only. -/
theorem writeStart_eq (s : State) : writeStart s = { s with wr := (writeStart s).wr } := by
  unfold writeStart; split <;> rfl

/-- Pushing: nothing, or the next byte of the source at the end of `txq`. -/
theorem writePush_cases (src : Nat → State → Byte) (n : Nat) (s : State) :
    (writePush src n s = (false, s) ∧ ¬(s.wr.idx.toNat < n ∧ s.fifo.txq.length < s.cfg.txFifoDepth)) ∨
    (s.wr.idx.toNat < n ∧ s.fifo.txq.length < s.cfg.txFifoDepth ∧
      writePush src n s =
        (true, { s with fifo.txq := s.fifo.txq ++ [src s.wr.idx.toNat s], wr.idx := s.wr.idx + 1 })) := by
  unfold writePush
  split
  · next h => exact .inr ⟨h.1, h.2, rfl⟩
  · next h => exact .inl ⟨rfl, h⟩

/-- The end of a step of a write touches the write registers and `txq` only. -/
theorem writeEnd_eq (n : Nat) (pushed : Bool) (s : State) :
    (writeEnd n pushed s).state =
      { s with wr := (writeEnd n pushed s).state.wr, fifo.txq := (writeEnd n pushed s).state.fifo.txq } := by
  unfold writeEnd
  split
  · rfl
  · split
    · rfl
    · split
      · rfl
      · split
        · rfl
        · split <;> rfl

/-- A write ends in success only when every byte has left the transmitter. -/
theorem writeEnd_done (n : Nat) (pushed : Bool) (s : State) (h : (writeEnd n pushed s).result = .done) :
    s.wr.idx.toNat = n ∧ s.fifo.txq = [] ∧ s.tx.busy = false ∧ (writeEnd n pushed s).state = { s with wr.act := false } := by
  unfold writeEnd at h ⊢
  split
  · next hc => exact ⟨hc.1, hc.2.1, hc.2.2, rfl⟩
  · next hc =>
    rw [if_neg hc] at h
    split at h
    · cases h
    · split at h
      · cases h
      · split at h
        · cases h
        · split at h <;> cases h

/-- A write fails only on a stall of the idle line, and then `txq` is emptied. -/
theorem writeEnd_failed (n : Nat) (pushed : Bool) (s : State) (h : (writeEnd n pushed s).result = .failed) :
    pushed = false ∧ s.tx.busy = false ∧ s.wr.stall = 0 ∧
      (writeEnd n pushed s).state = { s with fifo.txq := [], wr.act := false } := by
  unfold writeEnd at h ⊢
  split
  · next hc => rw [if_pos hc] at h; cases h
  · next hc =>
    rw [if_neg hc] at h
    cases pushed with
    | true => cases h
    | false =>
      by_cases hb : s.tx.busy = true
      · simp [hb] at h
      · by_cases hs : s.wr.stall = 0
        · simp [hb, hs]
        · simp only [hb, hs, if_false, Bool.false_eq_true] at h
          split at h <;> cases h

/-- The two parts of a logical write. -/
theorem logicalWrite_eq (src : Nat → State → Byte) (n : Nat) (s : State) :
    logicalWrite src n s =
      writeEnd n (writePush src n (writeStart s)).1 (writePush src n (writeStart s)).2 := rfl

/-- A sending state: stay, go on, or abort. -/
theorem sendThen_cases (src : Nat → State → Byte) (n : Nat) (err : ErrKind) (next : State → State) (s : State) :
    ((logicalWrite src n s).result = .pending ∧ sendThen src n err next s = (logicalWrite src n s).state) ∨
    ((logicalWrite src n s).result = .done ∧ sendThen src n err next s = next (logicalWrite src n s).state) ∨
    ((logicalWrite src n s).result = .failed ∧
      sendThen src n err next s = raiseError err (logicalWrite src n s).state) := by
  unfold sendThen
  cases h : (logicalWrite src n s).result <;> simp [h]

/-! ### WAIT (R148) -/

/-- Starting a delay touches the delay registers only. -/
theorem delayStart_eq (n : BitVec 32) (s : State) : delayStart n s = { s with dly := (delayStart n s).dly } := by
  unfold delayStart; split <;> rfl

/-- A step of a delay: ended, a tick counted, or nothing. -/
theorem delayEnd_cases (s : State) :
    (s.dly.cnt = 0 ∧ delayEnd s = (true, { s with dly.act := false })) ∨
    (s.dly.cnt ≠ 0 ∧ tick s = true ∧ delayEnd s = (false, { s with dly.cnt := s.dly.cnt - 1 })) ∨
    (s.dly.cnt ≠ 0 ∧ tick s = false ∧ delayEnd s = (false, s)) := by
  unfold delayEnd
  by_cases h1 : s.dly.cnt = 0
  · exact .inl ⟨h1, by simp [h1]⟩
  · by_cases h2 : tick s = true
    · exact .inr (.inl ⟨h1, h2, by rw [if_neg h1, if_pos h2]⟩)
    · exact .inr (.inr ⟨h1, by simpa using h2, by rw [if_neg h1, if_neg h2]⟩)

/-- A delay touches the delay registers only. -/
theorem waitTicks_eq (n : BitVec 32) (s : State) : (waitTicks n s).2 = { s with dly := (waitTicks n s).2.dly } := by
  unfold waitTicks
  rcases delayEnd_cases (delayStart n s) with ⟨_, h⟩ | ⟨_, _, h⟩ | ⟨_, _, h⟩ <;> rw [h, delayStart_eq]

/-- A state that holds a delay: stay, or go on. -/
theorem waitThen_cases (n : BitVec 32) (next : State → State) (s : State) :
    ((waitTicks n s).1 = false ∧ waitThen n next s = (waitTicks n s).2) ∨
    ((waitTicks n s).1 = true ∧ waitThen n next s = next (waitTicks n s).2) := by
  unfold waitThen
  cases h : (waitTicks n s).1 <;> simp [h]

/-! ### Operands -/

/-- A length operand is refused, or latched. -/
theorem withLen_cases (len : BitVec 16) (next : State → State) (s : State) :
    (lenFits s.cfg len = true ∧ withLen len next s = next { s with latched.len := len }) ∨
    (lenFits s.cfg len = false ∧ withLen len next s = raiseError .invalidParams s) := by
  unfold withLen
  cases h : lenFits s.cfg len <;> simp

end Sys2Proof.Machine
end

