-- ==== Sys2Proof/Laws/PerInstr.lean ====
section
/-! SUPPORT. The family `TableRow`: every instruction's code lies in its row of spec/opcode_table.json, that is,
its bits under the row's mask are the row's match and it has no bit above the row's width. -/

namespace Sys2Proof.Laws

/-- A code as the number the table writes (a byte sequence has its first byte most significant). -/
def codeNumber : Code → Nat
  | .cmd w => w.toNat
  | .tx bytes => bytes.foldl (fun n b => 256 * n + b.toNat) 0
  | .header sHi sLo t => 65536 * sHi.toNat + 256 * sLo.toNat + t.toNat
  | .announce aHi aLo => 256 * aHi.toNat + aLo.toNat

/-- A row of the table: its width in bits, its mask and its match. -/
structure Row where
  bits : Nat
  mask : Nat
  value : Nat
deriving DecidableEq, Repr

/-- The row of an instruction, as spec/opcode_table.json writes it. -/
def rowOf : Instr → Row
  | .nop => ⟨32, 0xFFFFFFFF, 0x00000000⟩
  | .flush => ⟨32, 0xFFFFFFFF, 0x00000001⟩
  | .resetUnit _ _ _ => ⟨32, 0xFFFFF8FF, 0x00000002⟩
  | .loadPlugin => ⟨32, 0xFFFFFFFF, 0x00000003⟩
  | .runPlugin => ⟨32, 0xFFFFFFFF, 0x00000004⟩
  | .readPacket => ⟨32, 0xFFFFFFFF, 0x00000005⟩
  | .getVersion _ => ⟨32, 0x0000FFFF, 0x00000006⟩
  | .read _ => ⟨32, 0x0000FFFF, 0x00000007⟩
  | .write _ => ⟨32, 0x0000FFFF, 0x00000008⟩
  | .imgClear => ⟨32, 0xFFFFFFFF, 0x00000009⟩
  | .versionQuery => ⟨8, 0xFF, 0xA1⟩
  | .loadHdr => ⟨40, 0xFFFFFFFFFF, 0x4B000404B4⟩
  | .runHdr => ⟨40, 0xFFFFFFFFFF, 0x7E000400E7⟩
  | .pktEod _ _ => ⟨24, 0x0000FF, 0x000000⟩
  | .pktPrg _ _ => ⟨24, 0x0000FF, 0x000001⟩
  | .pktChr _ _ => ⟨24, 0x0000FF, 0x000002⟩
  | .pktWram _ _ => ⟨24, 0x0000FF, 0x000003⟩
  | .pktReset _ _ => ⟨24, 0x0000FF, 0x000004⟩
  | .rebootAnnounce _ _ => ⟨16, 0x0000, 0x0000⟩

/-- The code of `i` lies in the row of `i`. -/
def TableRow.Statement (i : Instr) : Prop :=
  codeNumber (encode i) &&& (rowOf i).mask = (rowOf i).value ∧ codeNumber (encode i) < 2 ^ (rowOf i).bits

/-- The number of a command word with a length operand. -/
theorem cmdWord_toNat (len : BitVec 16) (opc : Byte) :
    (cmdWord len 0 opc).toNat = 65536 * len.toNat + opc.toNat := by
  have h1 : opc.toNat < 2 ^ 16 := lt_trans opc.isLt (by norm_num)
  have h2 : (len ++ (0 : Byte)).toNat = 256 * len.toNat := by
    rw [BitVec.toNat_append, Nat.shiftLeft_eq]
    simp [mul_comm]
  have h3 : 256 * len.toNat * 2 ^ 8 = 2 ^ 16 * len.toNat := by ring
  rw [cmdWord, BitVec.toNat_append, h2, Nat.shiftLeft_eq, h3, ← Nat.two_pow_add_eq_or_of_lt h1]

/-- The row of a command with a length operand. -/
theorem lenRow (len : BitVec 16) (opc : Byte) :
    (cmdWord len 0 opc).toNat &&& 0x0000FFFF = opc.toNat ∧ (cmdWord len 0 opc).toNat < 2 ^ 32 := by
  have h : (cmdWord len 0 opc).toNat &&& (2 ^ 16 - 1) = opc.toNat := by
    rw [Nat.and_two_pow_sub_one_eq_mod, cmdWord_toNat]
    have := opc.isLt
    omega
  exact ⟨h, (cmdWord len 0 opc).isLt⟩

/-- The row of a packet header. -/
theorem headerRow (a b t : Byte) :
    (65536 * a.toNat + 256 * b.toNat + t.toNat) &&& 0x0000FF = t.toNat ∧
      65536 * a.toNat + 256 * b.toNat + t.toNat < 2 ^ 24 := by
  have ha := a.isLt
  have hb := b.isLt
  have ht := t.isLt
  have h : (65536 * a.toNat + 256 * b.toNat + t.toNat) &&& (2 ^ 8 - 1) = t.toNat := by
    rw [Nat.and_two_pow_sub_one_eq_mod]
    omega
  exact ⟨h, by omega⟩

theorem TableRow.nop : TableRow.Statement .nop := ⟨by decide, by decide⟩
theorem TableRow.flush : TableRow.Statement .flush := ⟨by decide, by decide⟩
theorem TableRow.resetUnit (pm nr ap : Bool) : TableRow.Statement (.resetUnit pm nr ap) := by
  cases pm <;> cases nr <;> cases ap <;> exact ⟨by decide, by decide⟩
theorem TableRow.loadPlugin : TableRow.Statement .loadPlugin := ⟨by decide, by decide⟩
theorem TableRow.runPlugin : TableRow.Statement .runPlugin := ⟨by decide, by decide⟩
theorem TableRow.readPacket : TableRow.Statement .readPacket := ⟨by decide, by decide⟩
theorem TableRow.getVersion (len : BitVec 16) : TableRow.Statement (.getVersion len) := lenRow len 6
theorem TableRow.read (len : BitVec 16) : TableRow.Statement (.read len) := lenRow len 7
theorem TableRow.write (len : BitVec 16) : TableRow.Statement (.write len) := lenRow len 8
theorem TableRow.imgClear : TableRow.Statement .imgClear := ⟨by decide, by decide⟩
theorem TableRow.versionQuery : TableRow.Statement .versionQuery := ⟨by decide, by decide⟩
theorem TableRow.loadHdr : TableRow.Statement .loadHdr := ⟨by decide, by decide⟩
theorem TableRow.runHdr : TableRow.Statement .runHdr := ⟨by decide, by decide⟩
theorem TableRow.pktEod (sHi sLo : Byte) : TableRow.Statement (.pktEod sHi sLo) := headerRow sHi sLo 0
theorem TableRow.pktPrg (sHi sLo : Byte) : TableRow.Statement (.pktPrg sHi sLo) := headerRow sHi sLo 1
theorem TableRow.pktChr (sHi sLo : Byte) : TableRow.Statement (.pktChr sHi sLo) := headerRow sHi sLo 2
theorem TableRow.pktWram (sHi sLo : Byte) : TableRow.Statement (.pktWram sHi sLo) := headerRow sHi sLo 3
theorem TableRow.pktReset (sHi sLo : Byte) : TableRow.Statement (.pktReset sHi sLo) := headerRow sHi sLo 4
theorem TableRow.rebootAnnounce (aHi aLo : Byte) : TableRow.Statement (.rebootAnnounce aHi aLo) := by
  have ha := aHi.isLt
  have hb := aLo.isLt
  refine ⟨Nat.and_zero _, ?_⟩
  simp only [encode, codeNumber, rowOf]
  omega

end Sys2Proof.Laws
end

