-- ==== Sys2Proof/Laws/Steps.lean ====
section
/-! SUPPORT. One step of each primitive (RD, WR, WAIT), its first step included, as one equation for each case: every
state that holds a primitive is proved by citing these. Then the phases around the engine step. -/

namespace Sys2Proof.Machine

/-! ### RD (R145) -/

/-- The registers a read works on, whether it starts in this step or is in progress. -/
theorem readStart_inStep (s : State) :
    readStart s = { s with rd := { act := true, got := gotInStep s, budget := budgetInStep s } } := by
  unfold readStart gotInStep budgetInStep
  cases h : s.rd.act
  · rfl
  · simp only [if_true]
    rw [← h]

/-- The step of a read that finds no byte waiting and ends: complete already, or short. -/
theorem logicalRead_empty_done (dst : Nat → Byte → State → State) (r : Nat) (s : State) (hq : s.fifo.rxq = [])
    (h : (gotInStep s).toNat = r ∨ budgetInStep s = 0) :
    logicalRead dst r s = { result := .done (gotInStep s).toNat, popped := none, state := { s with
      rd := { act := false, got := gotInStep s, budget := budgetInStep s } } } := by
  rw [logicalRead_eq, readStart_inStep]
  unfold readTake readEnd
  rcases h with h | h <;> simp [hq, h]

/-- The step of a read that finds no byte waiting and goes on. -/
theorem logicalRead_empty_pending (dst : Nat → Byte → State → State) (r : Nat) (s : State) (hq : s.fifo.rxq = [])
    (h : (gotInStep s).toNat ≠ r) (hb : budgetInStep s ≠ 0) :
    logicalRead dst r s = { result := .pending, popped := none, state := { s with
      rd := { act := true, got := gotInStep s
              budget := if tick s then budgetInStep s - 1 else budgetInStep s } } } := by
  rw [logicalRead_eq, readStart_inStep]
  have hb : ¬budgetInStep s = 0 := hb
  simp only [readTake, hq, readEnd, h, if_false]
  rw [if_neg hb]
  unfold tick
  cases decide (s.tickCnt + 1 = s.cfg.tickCycles) <;> rfl

/-- Taking a byte, in the step of a read that finds one waiting. -/
theorem readTake_byte (dst : Nat → Byte → State → State) (r : Nat) (s : State) (b : Byte) (q : List Byte)
    (hq : s.fifo.rxq = b :: q) (h : (gotInStep s).toNat < r) :
    readTake dst r (readStart s) = (some b, dst (gotInStep s).toNat b { s with
      fifo.rxq := q, rd := { act := true, got := gotInStep s + 1, budget := budgetInStep s } }) := by
  rw [readStart_inStep]
  simp [readTake, hq, h]

/-- The count after a byte, for a request that fits its register. -/
theorem got_add_one (s : State) (r : Nat) (h : (gotInStep s).toNat < r) (hr : r < 65536) :
    (gotInStep s + 1).toNat = (gotInStep s).toNat + 1 := by
  rw [BitVec.toNat_add]
  simp
  omega

/-- The step of a read that takes its last byte, or takes one with the budget used up. `dst` stores in memory only. -/
theorem logicalRead_byte_done (dst : Nat → Byte → State → State) (r : Nat) (s : State) (b : Byte) (q : List Byte)
    (m : Memories) (hq : s.fifo.rxq = b :: q) (h : (gotInStep s).toNat < r) (hr : r < 65536)
    (hd : ∀ f g, dst (gotInStep s).toNat b { s with fifo := f, rd := g } = { s with fifo := f, rd := g, mem := m })
    (he : (gotInStep s).toNat + 1 = r ∨ budgetInStep s = 0) :
    logicalRead dst r s = { result := .done ((gotInStep s).toNat + 1), popped := some b, state := { s with
      mem := m, fifo.rxq := q, rd := { act := false, got := gotInStep s + 1, budget := budgetInStep s } } } := by
  rw [logicalRead_eq, readTake_byte dst r s b q hq h, hd]
  unfold readEnd
  rw [got_add_one s r h hr]
  rcases he with he | he <;> simp [he]

/-- The step of a read that takes a byte and goes on. -/
theorem logicalRead_byte_pending (dst : Nat → Byte → State → State) (r : Nat) (s : State) (b : Byte) (q : List Byte)
    (m : Memories) (hq : s.fifo.rxq = b :: q) (h : (gotInStep s).toNat < r) (hr : r < 65536)
    (hd : ∀ f g, dst (gotInStep s).toNat b { s with fifo := f, rd := g } = { s with fifo := f, rd := g, mem := m })
    (he : (gotInStep s).toNat + 1 ≠ r) (hb : budgetInStep s ≠ 0) :
    logicalRead dst r s = { result := .pending, popped := some b, state := { s with
      mem := m, fifo.rxq := q
      rd := { act := true, got := gotInStep s + 1
              budget := if tick s then budgetInStep s - 1 else budgetInStep s } } } := by
  rw [logicalRead_eq, readTake_byte dst r s b q hq h, hd]
  have hb : ¬budgetInStep s = 0 := hb
  simp only [readEnd, got_add_one s r h hr, he, if_false]
  rw [if_neg hb]
  unfold tick
  cases decide (s.tickCnt + 1 = s.cfg.tickCycles) <;> rfl

/-! ### WR (R147) -/

/-- The registers a write works on, whether it starts in this step or is in progress. -/
theorem writeStart_inStep (s : State) : writeStart s = { s with wr := writeInStep s } := by
  unfold writeStart writeInStep
  split <;> rfl

/-- The step of a write that pushes a byte. `src` does not read the write registers. -/
theorem logicalWrite_push (src : Nat → State → Byte) (n : Nat) (s : State)
    (hsrc : ∀ k w, src k { s with wr := w } = src k s) (h : canPush n s) :
    logicalWrite src n s = { result := .pending, state := { s with
      fifo.txq := s.fifo.txq ++ [src (writeInStep s).idx.toNat s]
      wr := { writeInStep s with idx := (writeInStep s).idx + 1, stall := s.cfg.writeStall } } } := by
  rw [logicalWrite_eq, writeStart_inStep]
  unfold canPush at h
  simp only [writePush]
  rw [if_pos h]
  simp [writeEnd, hsrc]

/-- A write that cannot push does not. -/
theorem writePush_none (src : Nat → State → Byte) (n : Nat) (s : State) (h : ¬canPush n s) :
    writePush src n { s with wr := writeInStep s } = (false, { s with wr := writeInStep s }) := by
  unfold canPush at h
  unfold writePush
  rw [if_neg h]

/-- The step of a write that is done. -/
theorem logicalWrite_done (src : Nat → State → Byte) (n : Nat) (s : State) (h : allStarted n s)
    (hb : s.tx.busy = false) :
    logicalWrite src n s = { result := .done, state := { s with wr := { writeInStep s with act := false } } } := by
  obtain ⟨h1, h2⟩ := h
  rw [logicalWrite_eq, writeStart_inStep, writePush_none src n s (fun h => by have := h.1; omega)]
  simp [writeEnd, h1, h2, hb]

/-- The step of a write that waits for the character on the line. -/
theorem logicalWrite_busy (src : Nat → State → Byte) (n : Nat) (s : State) (h : ¬canPush n s)
    (hb : s.tx.busy = true) : logicalWrite src n s = { result := .pending, state := { s with wr := writeInStep s } } := by
  rw [logicalWrite_eq, writeStart_inStep, writePush_none src n s h]
  simp [writeEnd, hb]

/-- The step of a stalled write: the line idle, nothing to push, and the write not done. -/
theorem logicalWrite_stall (src : Nat → State → Byte) (n : Nat) (s : State) (h : ¬canPush n s) (hd : ¬allStarted n s)
    (hb : s.tx.busy = false) :
    logicalWrite src n s =
      if (writeInStep s).stall = 0 then
        { result := .failed, state := { s with fifo.txq := [], wr := { writeInStep s with act := false } } }
      else { result := .pending, state := { s with
        wr := { writeInStep s with
          stall := if tick s then (writeInStep s).stall - 1 else (writeInStep s).stall } } } := by
  rw [logicalWrite_eq, writeStart_inStep, writePush_none src n s h]
  unfold writeEnd
  rw [if_neg (fun h => hd ⟨h.1, h.2.1⟩)]
  simp only [hb, if_false, Bool.false_eq_true]
  by_cases hs : (writeInStep s).stall = 0
  · rw [if_pos hs, if_pos hs]
  · rw [if_neg hs, if_neg hs]
    unfold tick
    cases decide (s.tickCnt + 1 = s.cfg.tickCycles) <;> rfl

/-! ### WAIT (R148) -/

/-- The registers a delay works on, whether it starts in this step or is in progress. -/
theorem delayStart_inStep (n : BitVec 32) (s : State) : delayStart n s = { s with dly := delayInStep n s } := by
  unfold delayStart delayInStep
  split <;> rfl

/-- A delay is in progress in a step that holds one. -/
@[simp] theorem delayInStep_act (n : BitVec 32) (s : State) : (delayInStep n s).act = true := by
  unfold delayInStep
  split
  · assumption
  · rfl

/-- A step of a state that holds a delay: on at 0, a tick counted, or nothing. -/
theorem waitThen_step (n : BitVec 32) (next : State → State) (s : State) :
    waitThen n next s =
      if (delayInStep n s).cnt = 0 then next { s with dly := { act := false, cnt := 0 } }
      else if tick s then { s with dly := { act := true, cnt := (delayInStep n s).cnt - 1 } }
      else { s with dly := delayInStep n s } := by
  have ha := delayInStep_act n s
  unfold waitThen waitTicks
  rw [delayStart_inStep]
  generalize delayInStep n s = d at *
  obtain ⟨a, c⟩ := d
  simp only at ha
  subst ha
  unfold delayEnd tick
  by_cases h : c = 0
  · simp [h]
  · simp only [h, if_false]
    cases decide (s.tickCnt + 1 = s.cfg.tickCycles) <;> rfl

/-! ### The phases around the engine step -/

/-- Starting a step takes an input, counts the step and drives the registered outputs. -/
theorem beginStep_eq (s : State) :
    beginStep s = { s with env := s.env.tail, draws := s.draws + 1, out := portsAtStart s } := rfl

/-- No register reads what the start of a step changes. -/
@[simp] theorem readReg_beginStep (r : Reg) (s : State) : readReg r (beginStep s) = readReg r s := by
  cases r <;> rfl

/-- A read has a side effect at the three data ports only. -/
theorem readEffect_eq_self (r : Reg) (s : State) (h : r ∉ [Reg.pktData, .imgData, .dbufData]) :
    readEffect r s = s := by
  cases r <;> first | rfl | simp at h

/-- P4 writes the FIFOs, the transmitter, the write registers and two outputs. -/
theorem phase4_eq (s : State) :
    phase4 s = { s with
      fifo := (phase4 s).fifo, tx := (phase4 s).tx, wr := (phase4 s).wr
      out := { s.out with txEv := (phase4 s).out.txEv, txdO := (phase4 s).out.txdO } } := by
  unfold phase4 driveTxd startChar advanceChar
  split <;> split <;> (try split) <;> (try split) <;> (try split) <;> rfl

/-! ### The synchronisers (R142, R181) -/

/-- A level held for two steps is taken. -/
@[simp] theorem secondStage_held (c l y : Bool) : secondStage c l l y = l := by simp [secondStage]

/-- The second stage takes the first stage's level, or keeps its own after a pulse. -/
theorem secondStage_cases (c l x y : Bool) :
    secondStage c l x y = x ∨ l ≠ x ∧ secondStage c l x y = y := by
  revert c l x y
  decide

/-- The lines of a port go through the second stage each on its own. -/
theorem getLsbD_secondStages {n : Nat} (c l x y : BitVec n) (k : Nat) (h : k < n) :
    (secondStages c l x y).getLsbD k =
      secondStage (c.getLsbD k) (l.getLsbD k) (x.getLsbD k) (y.getLsbD k) := by
  unfold secondStages secondStage
  simp only [BitVec.getLsbD_or, BitVec.getLsbD_and, BitVec.getLsbD_not, BitVec.getLsbD_xor, h, decide_true,
    Bool.true_and]
  cases c.getLsbD k <;> cases l.getLsbD k <;> cases x.getLsbD k <;> cases y.getLsbD k <;> rfl

end Sys2Proof.Machine
end

