-- ==== Sys2Proof/Tests/Slice0.lean ====
section
/-! SUPPORT. Our own tests: ill-formed terms refused, encodings written out from the spec decode, single steps of the
vectors of 95_test_vectors.md, and for every obligation with hypotheses a named witness that they can be met. -/

open Sys2Proof Sys2Proof.Machine

namespace Sys2Proof.Tests

/-! ### States -/

/-- Environment E of 95_test_vectors.md: CTS held, nothing else. -/
def quietCts : Inputs := { Inputs.quiet with cts := true }

/-- An idle block of parameter set P in environment E. -/
def idleE : State :=
  { State.reset with
    env := [quietCts, quietCts, quietCts]
    sync := { State.reset.sync with cts1 := true, cts2 := true } }

/-- A command in progress. -/
def busyIn (w : Word) (e : Engine) : State :=
  { idleE with status := { idleE.status with busy := true, cmdLast := w }, engine := e }

/-- READ_PACKET in progress in a framer state. -/
def framing (f : Framer) : State := busyIn 0x00000005 { eng := .pk, ctx := .cmd, fs := f }

/-- READ_PACKET in progress in a recovery state. -/
def recovering (e : Eng) : State := busyIn 0x00000005 { eng := e, ctx := .recovery, fs := .doReset }

/-- A command in progress for the host in an engine state. -/
def inState (w : Word) (e : Eng) : State := busyIn w { eng := e, ctx := .cmd, fs := .idle }

/-- With the bytes of `q` waiting. -/
def waiting (q : List Byte) (s : State) : State := { s with fifo := { s.fifo with rxq := q } }

/-- With a write in progress. -/
def writing (idx : BitVec 16) (txq : List Byte) (stall : BitVec 32) (s : State) : State :=
  { s with wr := { act := true, idx := idx, sent := 1, stall := stall }, fifo := { s.fifo with txq := txq } }

/-- With a read in progress. -/
def reading (got : BitVec 16) (budget : BitVec 32) (s : State) : State :=
  { s with rd := { act := true, got := got, budget := budget } }

/-- With the coming step's bus access. -/
def access (b : Bus) (s : State) : State := { s with env := { quietCts with bus := b } :: s.env }

/-- The outcome is a next state with a property. -/
def next? (o : Host.Outcome State Fault Refusal) (f : State → Bool) : Bool :=
  match o with
  | .next t => f t
  | _ => false

/-! ### Well-formedness: each check refuses an ill-formed term (R95, R266) -/

theorem test_wf_length_zero : (Instr.read 0).wellFormed Params.setP = false := by decide
theorem test_wf_length_above : (Instr.write 65).wellFormed Params.setP = false := by decide
theorem test_wf_length_bound : (Instr.getVersion 64).wellFormed Params.setP = true := by decide
theorem test_wf_blocks_above : (Instr.pktPrg 0x00 0x11).wellFormed Params.setP = false := by decide
theorem test_wf_blocks_bound : (Instr.pktWram 0x00 0x10).wellFormed Params.setP = true := by decide

/-! ### Decoding, from the encodings of R91 to R112 and ENC-1 to ENC-34 -/

theorem test_decode_nop : decode (.cmd 0x00000000) = .ok .nop := by decide
theorem test_decode_flush : decode (.cmd 0x00000001) = .ok .flush := by decide
theorem test_decode_reset_playmode : decode (.cmd 0x00000102) = .ok (.resetUnit true false false) := by decide
theorem test_decode_reset_noreset : decode (.cmd 0x00000202) = .ok (.resetUnit false true false) := by decide
theorem test_decode_load_plugin : decode (.cmd 0x00000003) = .ok .loadPlugin := by decide
theorem test_decode_run_plugin : decode (.cmd 0x00000004) = .ok .runPlugin := by decide
theorem test_decode_read_packet : decode (.cmd 0x00000005) = .ok .readPacket := by decide
theorem test_decode_get_version : decode (.cmd 0x00400006) = .ok (.getVersion 64) := by decide
theorem test_decode_read : decode (.cmd 0x00100007) = .ok (.read 16) := by decide
theorem test_decode_write : decode (.cmd 0x00010008) = .ok (.write 1) := by decide
theorem test_decode_img_clear : decode (.cmd 0x00000009) = .ok .imgClear := by decide
theorem test_decode_version_query : decode (.tx [0xA1]) = .ok .versionQuery := by decide
theorem test_decode_load_hdr : decode (.tx [0x4B, 0x00, 0x04, 0x04, 0xB4]) = .ok .loadHdr := by decide
theorem test_decode_run_hdr : decode (.tx [0x7E, 0x00, 0x04, 0x00, 0xE7]) = .ok .runHdr := by decide
theorem test_decode_pkt_eod : decode (.header 0x00 0x01 0x00) = .ok (.pktEod 0x00 0x01) := by decide
theorem test_decode_pkt_prg : decode (.header 0x00 0x01 0x01) = .ok (.pktPrg 0x00 0x01) := by decide
theorem test_decode_pkt_chr : decode (.header 0x01 0x00 0x02) = .ok (.pktChr 0x01 0x00) := by decide
theorem test_decode_pkt_wram : decode (.header 0x00 0x10 0x03) = .ok (.pktWram 0x00 0x10) := by decide
theorem test_decode_pkt_reset : decode (.header 0x00 0x0B 0x04) = .ok (.pktReset 0x00 0x0B) := by decide
theorem test_decode_announce : decode (.announce 0x00 0x0C) = .ok (.rebootAnnounce 0x00 0x0C) := by decide

/-- ENC-16, ENC-18, ENC-20, ENC-21, ENC-24, ENC-32: words and headers that are refused. -/
theorem test_decode_refused :
    decode (.cmd 0x0000000A) = .error (.badOpcode 0x0A) ∧ decode (.cmd 0x00000100) = .error (.reservedArg 0x01) ∧
    decode (.cmd 0x00000802) = .error (.reservedArg 0x08) ∧ decode (.cmd 0x00010005) = .error (.reservedLen 1) ∧
    decode (.cmd 0x00010107) = .error (.reservedArg 0x01) ∧ decode (.header 0x00 0x01 0x05) = .error (.badType 5) := by
  decide

/-- The opcode table's rows by number: R94's bits, a header's bytes, the announcement's bytes. -/
theorem test_table_words :
    decodeTableWord 32 0x00000302 = some (.resetUnit true true false) ∧ decodeTableWord 8 0xA1 = some .versionQuery ∧
    decodeTableWord 40 0x4B000404B4 = some .loadHdr ∧ decodeTableWord 24 0x000804 = some (.pktReset 0x00 0x08) ∧
    decodeTableWord 16 0x0007 = some (.read 0) ∧ decodeTableWord 16 0x000C = some (.rebootAnnounce 0x00 0x0C) := by
  decide

/-! ### Single steps -/

/-- CH-14: `RESULT` 0 and `BUSY` 0 from the step after dispatch, `LAST_ERR` as it was. -/
theorem test_nop_step :
    next? (step (access (.write 0x04 0x00000000) { idleE with status := { idleE.status with lastErr := 5 } }))
      (fun t => t.status.result = 0 && !t.status.busy && t.status.lastErr = 5) = true := by decide

/-- CH-10: a byte delivered in FLUSH's dispatch step is discarded too. -/
theorem test_flush_step :
    next? (step { idleE with env := [{ quietCts with bus := .write 0x04 0x00000001, rx := .event (.byte 0x77) }] })
      (fun t => t.fifo.rxq = [] && t.status.result = 0) = true := by decide

/-- RU-3, step 1: `RS_MODE` with PLAYMODE and NORESET clears the mode line and skips the pulse. -/
theorem test_reset_unit_mode :
    next? (step { inState 0x00000302 .rsMode with latched := { rmode := 3, len := 0 } })
      (fun t => !t.lines.mode && t.lines.dtr && t.engine.eng = .rsFinish) = true := by decide

/-- RU-1, step 2: `RS_ASSERT` drops the reset line; the port shows it from the next step. -/
theorem test_reset_unit_assert :
    next? (step (inState 0x00000002 .rsAssert)) (fun t => !t.lines.dtr && t.out.dtrO && t.engine.eng = .rsHold1) = true := by
  decide

/-- PL-5 (`write_one`): the flag byte at 1014 is sent as 0x01. -/
theorem test_load_plugin_patch :
    next? (step (writing 1014 [] 5
        { inState 0x00000003 .ldPay with
          cfg := { Params.setP with uvFlagPolicy := .writeOne }
          sync := { idleE.sync with cts2 := false }
          host := { idleE.host with uv := idleE.host.uv.set 1 { en := true, value := 0x05 } } }))
      (fun t => t.fifo.txq = [0x01] && t.wr.idx = 1015) = true := by decide

/-- PL-9, step 1: `RN_CLEAR` clears both counters. -/
theorem test_run_plugin_clear :
    next? (step { inState 0x00000004 .rnClear with session := { rbyte := 3, rcount := 1 } })
      (fun t => t.session = { rbyte := 0, rcount := 0 } && t.engine.eng = .rnHdr) = true := by decide

/-- PK-15: a count of 6 against a threshold of 2 starts recovery. -/
theorem test_read_packet_do_reset :
    next? (step { framing .doReset with session := { rbyte := 2, rcount := 5 } })
      (fun t => t.engine = { eng := .rsMode, ctx := .recovery, fs := .doReset } && t.session.rcount = 6) = true := by
  decide

/-- PK-7, step 4: type 7 ends in BadTypeError and leaves the next byte. -/
theorem test_read_packet_bad_type :
    next? (step (waiting [0x07, 0x11] (framing .readFormat)))
      (fun t => t.status.result = 10 && !t.status.busy && t.fifo.rxq = [0x11]) = true := by decide

/-- VER-5: a length above `DBUF_BYTES` is refused with no flush. -/
theorem test_get_version_refused :
    next? (step (access (.write 0x04 0x00410006) (waiting [0xEE] idleE)))
      (fun t => t.status.result = 7 && t.fifo.rxq = [0xEE] && !t.status.busy) = true := by decide

/-- CH-3, step 1: `TIMEOUT` 0 takes one byte and ends short. -/
theorem test_read_short :
    next? (step (waiting [0x11, 0x22] { inState 0x00040007 .rrRead with latched := { rmode := 0, len := 4 } }))
      (fun t => t.host.xferCount = 1 && t.fifo.rxq = [0x22] && memRead .dbuf 0 t = 0x11 && !t.status.busy) = true := by
  decide

/-- CH-6, step 1: the first byte is pushed in P3 and starts in P4. -/
theorem test_write_first_byte :
    next? (step { inState 0x00030008 .rwWrite with
        latched := { rmode := 0, len := 3 }, mem := { idleE.mem with dbuf := [(0, 0xA1), (1, 0xB2), (2, 0xC3)] } })
      (fun t => t.out.txEv = some 0xA1 && t.wr.sent = 1 && t.tx.cnt = 9) = true := by decide

/-- PL-12: IMG_CLEAR. -/
theorem test_img_clear_step :
    next? (step (access (.write 0x04 0x00000009)
        { idleE with mem := { idleE.mem with img := [(7, 0x33)] }, status := { idleE.status with pluginValid := true } }))
      (fun t => memRead .img 7 t = 0 && !t.status.pluginValid && t.host.imgPtr = 0) = true := by decide

/-- VER-1, step 1, and PL-6 and PL-9, first characters: the codes' first bytes. -/
theorem test_code_first_bytes :
    next? (step (inState 0x00080006 .vpSend)) (fun t => t.out.txEv = some 0xA1) = true ∧
    next? (step (inState 0x00000003 .ldHdr)) (fun t => t.out.txEv = some 0x4B) = true ∧
    next? (step (inState 0x00000004 .rnHdr)) (fun t => t.out.txEv = some 0x7E) = true := by decide

/-- ENC-26, ENC-28, ENC-30, ENC-33: what the `ReadFormat` dispatch makes of a header. -/
theorem test_headers :
    next? (exec (.pktChr 0x01 0x00) (framing .readFormat)) (fun t => t.status.result = 9 && !t.status.busy) = true ∧
    next? (exec (.pktPrg 0x00 0x00) (framing .readFormat)) (fun t => t.engine.fs = .endState) = true ∧
    next? (exec (.pktWram 0x00 0x10) (framing .readFormat)) (fun t => t.engine.fs = .readData) = true ∧
    next? (exec (.pktReset 0x00 0x0B) (framing .readFormat)) (fun t => t.session.rbyte = 2) = true ∧
    next? (exec (.pktEod 0x00 0x01) (framing .readFormat)) (fun t => t.engine.fs = .endState && t.work.size = 0x100) =
      true := by decide

/-- R273: the announcement `00 0C` gives a threshold of 3. -/
theorem test_announcement :
    next? (exec (.rebootAnnounce 0x00 0x0C) (framing .readRebootByteLow))
      (fun t => t.session.rbyte = 3 && t.engine.fs = .readData) = true := by decide

/-- LN-1 and REG-13: `CTRL` with two spare outputs; `DBUF_DATA` beyond the buffer. -/
theorem test_registers :
    readReg .ctrl { idleE with
      cfg := { Params.setP with auxOutW := 2 }, lines := { dtr := true, mode := true, auxOut := 1 }
      sync := { idleE.sync with ps2 := true } } = 0x00000107 ∧
    readReg .dbufData { idleE with host := { idleE.host with dbufPtr := 64 } } = 0 := by decide

/-- LN-4: a level held from step c is in `ps_s2` two steps later; LN-7: after a pulse of one step `ps_s2` is the free
value. -/
theorem test_power_sense :
    (phase5 { quietCts with psense := true } { idleE with sync := { idleE.sync with ps1 := true } }).sync.ps2 = true ∧
    (phase5 quietCts { idleE with sync := { idleE.sync with ps1 := true } }).sync.ps2 =
      (Config.pulseCapture 0).psense := by
  refine ⟨rfl, ?_⟩
  show (if (Config.pulseCapture 0).psense = true then true else false) = _
  cases (Config.pulseCapture 0).psense <;> rfl

/-- REG-1: a read of `ID` through the bus. -/
theorem test_read_id :
    next? (step (access (.read 0x02) idleE)) (fun t => t.out.rdata = some 0x434E5046) = true := by decide

/-- PL-7, step 5: with CTS off and `txq` full, the stall count runs though bytes of the code are still to come. -/
theorem test_stall_with_full_queue :
    next? (exec .loadHdr (writing 4 [0x4B, 0, 4, 4] 10 (inState 0x00000003 .ldHdr)))
      (fun t => t.wr.stall = 9 && t.fifo.txq = [0x4B, 0, 4, 4]) = true := by decide

/-! ### Placing an instruction -/

theorem test_with_fetch_word :
    next? (step (State.reset.withFetchWord 32 0x00000302)) (fun t => t.engine.eng = .rsMode && t.latched.rmode = 3) =
      true ∧
    next? (step (State.reset.withFetchWord 24 0x000804)) (fun t => t.session.rbyte = 2 && t.work.ftype = 4) = true ∧
    next? (step (State.reset.withFetchWord 40 0x4B000404B4)) (fun t => t.fifo.txq = [0x4B]) = true ∧
    next? (step (State.reset.withFetchWord 16 0x000C)) (fun t => t.session.rbyte = 3) = true := by decide

/-! ### Witnesses: the hypotheses of every obligation can be met, clause by clause, at the clauses' bounds -/

theorem canonical_of_idle : memoryCanonical idleE := by unfold memoryCanonical; decide

theorem witness_EncodeOfDecode : decode (.cmd 0x00000702) = .ok (.resetUnit true true true) := by decide

theorem witness_InvalidWordsRefusedByDecoder :
    0x0A ≤ (cmdOpc 0x0000000A).toNat ∧ 0x0A ≤ (cmdOpc 0xFFFFFFFF).toNat ∧
    ((cmdOpc 0x00000100).toNat ≠ 2 ∧ cmdArg 0x00000100 ≠ 0) ∧
    ((cmdOpc 0x00000802).toNat = 2 ∧ (cmdArg 0x00000802).extractLsb' 3 5 ≠ 0) ∧
    ((cmdOpc 0x00010005).toNat ∉ [6, 7, 8] ∧ cmdLen 0x00010005 ≠ 0) := by decide

theorem witness_RefusedWordChangesOnlyResult :
    idleE.engine = idleEngine ∧ idleE.status.busy = false ∧ idleE.rd.act = false ∧ idleE.wr.act = false ∧
    idleE.dly.act = false ∧ decodeCommand 0x0000000A = .error (.badOpcode 0x0A) ∧
    decodeCommand 0x00010005 = .error (.reservedLen 1) := by decide

theorem witness_StepRunsIssuedCommand :
    let s := access (.write 0x07 0x00100007) idleE
    (nextInput s).rst = false ∧ s.status.busy = false ∧ (nextInput s).bus = .write 0x07 0x00100007 ∧
    (0x07 : BitVec 8) &&& 0xFC = 0x04 ∧ decodeCommand 0x00100007 = .ok (.read 16) := by decide

theorem witness_StepRunsCommandInProgress :
    let s := access (.write 0x10 5) (inState 0x00000002 .rsHold1)
    (nextInput s).rst = false ∧ s.status.busy = true ∧ s.engine.eng ≠ .idle ∧
    decodeCommand s.status.cmdLast = .ok (.resetUnit false false false) := by decide

theorem witness_WireCodesRunInTheirStates :
    (decodeCommand (recovering .ldHdr).status.cmdLast = .ok .readPacket ∧ (recovering .ldHdr).engine.eng = .ldHdr) ∧
    (decodeCommand (inState 4 .rnHdr).status.cmdLast = .ok .runPlugin ∧ (inState 4 .rnHdr).engine.eng = .rnHdr) ∧
    (decodeCommand (inState 0x00080006 .vpSend).status.cmdLast = .ok (.getVersion 8) ∧
      (inState 0x00080006 .vpSend).engine.eng = .vpSend) ∧
    ((waiting [1] (framing .readFormat)).engine.eng = .pk ∧ (waiting [1] (framing .readFormat)).rd.act = false ∧
      (waiting [1] (framing .readFormat)).fifo.rxq = 1 :: [] ∧
      decode (.header (latchedHi (framing .readFormat)) (latchedLo (framing .readFormat)) 1) = .ok (.pktPrg 0 0)) ∧
    ((waiting [12] (framing .readRebootByteLow)).engine.fs = .readRebootByteLow ∧
      decode (.announce (framing .readRebootByteLow).work.hb 12) = .ok (.rebootAnnounce 0 12)) := by decide

theorem witness_ResetOverridesEverything :
    (nextInput { framing .readData with env := [{ quietCts with rst := true, bus := .read 0x00 }] }).rst = true := by
  decide

theorem witness_PlainRegistersReadAndWrite : idleE.status.busy = false ∧ (3 : Fin 4) ≠ 0 := by decide

theorem witness_HostAccessesReachTheirRegisters :
    Reg.cmd ∉ [Reg.pktData, .imgData, .dbufData] ∧
    ((nextInput idleE).rst = false ∧ (nextInput idleE).bus = .none) ∧
    ((nextInput (access (.read 0x37) idleE)).rst = false ∧
      (nextInput (access (.read 0x37) idleE)).bus = .read 0x37) ∧
    (nextInput (access (.write 0x10 9) idleE)).bus = .write 0x10 9 := by decide

theorem witness_StatusFields :
    idleE.engine.fs = .idle ∧ (framing .endState).engine.fs = .endState := by decide

theorem witness_ReservedOffsetsReadZero :
    0x60 ≤ ((0x60 : BitVec 8) &&& 0xFC).toNat ∧ 0x60 ≤ ((0xFF : BitVec 8) &&& 0xFC).toNat ∧
    idleE.status.busy = false ∧ (framing .start).status.busy = true := by decide

theorem witness_BusyWritesAndStickyFlags :
    (framing .start).status.busy = true ∧ Reg.cmd ≠ .status ∧
    (waiting [1, 2] { idleE with cfg := { Params.setP with rxFifoDepth := 2 } }).cfg.rxFifoDepth ≤
      (waiting [1, 2] { idleE with cfg := { Params.setP with rxFifoDepth := 2 } }).fifo.rxq.length := by decide

theorem witness_CtrlReadsAndWrites :
    let s := { idleE with cfg := { Params.setP with auxOutW := 6, auxInW := 7 } }
    s.cfg.auxOutW ≤ 6 ∧ s.cfg.auxInW ≤ 7 ∧ s.status.busy = false ∧
    maskLow s.cfg.auxOutW s.lines.auxOut = s.lines.auxOut := by decide

theorem witness_ResultViewsAreGated :
    let s := { idleE with status := { idleE.status with pktValid := true }, work := { idleE.work with size := 0x100 } }
    s.status.pktValid = true ∧ ({ s.host with pktPtr := 0xFF } : HostRegs).pktPtr < s.work.size ∧
    s.work.size ≤ ({ s.host with pktPtr := 0x100 } : HostRegs).pktPtr ∧ idleE.status.pktValid = false ∧
    s.status.busy = false := by decide

theorem witness_ImgDataPort : memoryCanonical idleE ∧ idleE.status.busy = false := ⟨canonical_of_idle, by decide⟩

theorem witness_DbufDataPort :
    memoryCanonical idleE ∧ idleE.status.busy = false ∧ (63 : BitVec 16).toNat < idleE.cfg.dbufBytes ∧
    idleE.cfg.dbufBytes ≤ (64 : BitVec 16).toNat := ⟨canonical_of_idle, by decide⟩

theorem witness_ReceiverPush :
    let s := { idleE with cfg := { Params.setP with rxFifoDepth := 2 } }
    (waiting [1] s).fifo.rxq.length < s.cfg.rxFifoDepth ∧ s.cfg.rxFifoDepth ≤ (waiting [1, 2] s).fifo.rxq.length := by
  decide

theorem witness_TransmitterSendsOldestByte :
    let s := writing 1 [0xA1] 5 (inState 0x00010008 .rwWrite)
    (s.out.txEv = none ∧ s.tx.busy = false ∧ s.fifo.txq = 0xA1 :: [] ∧ s.sync.cts2 = true ∧ s.wr.act = true) ∧
    idleE.wr.act = false ∧ State.reset.sync.cts2 = false ∧
    (s.tx.busy = false ∧ idleE.fifo.txq = []) ∧ ({ busy := true, cnt := 0, byte := 0 } : Transmitter).cnt = 0 ∧
    (({ busy := true, cnt := 1, byte := 0 } : Transmitter).busy = true ∧
      ({ busy := true, cnt := 1, byte := 0 } : Transmitter).cnt ≠ 0) := by decide

theorem witness_BitLevelCharacters :
    let s : State := { idleE with
      cfg := { Params.setP with baudCycles := 2, frameCycles := 20 }, tx := { busy := true, cnt := 0, byte := 0xA1 } }
    (s.tx.busy = true ∧ s.cfg.frameCycles = 10 * s.cfg.baudCycles ∧ 19 < s.cfg.frameCycles ∧
      s.tx.cnt = s.cfg.frameCycles - 1 - 19) ∧ idleE.tx.busy = false ∧ 1 ≤ idleE.cfg.baudCycles ∧
    2 ≤ s.cfg.baudCycles := by decide

/-- What `next?` says of an outcome: it is a next state with the property. -/
theorem next_of {o : Host.Outcome State Fault Refusal} {f : State → Bool} (h : next? o f = true) :
    ∃ t, o = .next t ∧ f t = true := by
  cases o with
  | next t => exact ⟨t, rfl, h⟩
  | fault r => cases h
  | refused r => cases h

theorem answers_of_next {o : Host.Outcome State Fault Refusal} (h : next? o (fun _ => true) = true) :
    ∃ t, o = .next t := (next_of h).imp fun _ h => h.1

theorem witness_SynchronisersAndTimebase :
    ∃ t u, (nextInput idleE).rst = false ∧ (nextInput t).rst = false ∧ step idleE = .next t ∧ step t = .next u := by
  obtain ⟨t, ht, h⟩ := next_of (o := step idleE)
    (f := fun t => !(nextInput t).rst && next? (step t) (fun _ => true)) (by decide)
  rw [Bool.and_eq_true, Bool.not_eq_true'] at h
  obtain ⟨u, hu⟩ := answers_of_next h.2
  exact ⟨t, u, by decide, h.1, ht, hu⟩

theorem witness_OutputsAreRegistered :
    let s := access (.read 0x00) idleE
    (∃ t, step s = .next t) ∧ (nextInput s).rst = false ∧ (nextInput s).bus = .read 0x00 ∧
    ∀ addr, (nextInput idleE).bus ≠ .read addr :=
  ⟨answers_of_next (by decide), by decide, by decide, by intro addr h; cases h⟩

theorem witness_ReadGivesUpAfterItsBudget :
    let s := { idleE with host := { idleE.host with timeout := 5 } }
    s.rd.act = false ∧ s.fifo.rxq = [] ∧ s.cfg.tickCycles = 1 ∧ s.tickCnt = 0 ∧ 4 < s.host.timeout.toNat := by decide

theorem witness_DelayLastsItsTicks :
    idleE.dly.act = false ∧ idleE.cfg.tickCycles = 1 ∧ idleE.tickCnt = 0 ∧ 2 < idleE.cfg.longDelay.toNat := by decide

theorem witness_LengthOperandsAtDispatch :
    let s := inState 0x00010007 .decode
    s.engine.eng = .decode ∧ (1 ≤ (1 : BitVec 16).toNat ∧ (1 : BitVec 16).toNat ≤ s.cfg.dbufBytes) ∧
    (64 : BitVec 16).toNat ≤ s.cfg.dbufBytes ∧ s.cfg.dbufBytes < (65 : BitVec 16).toNat := by decide

/-- READ 3 with `got` bytes read. -/
def readOf3 (got : BitVec 16) (budget : BitVec 32) : State :=
  waiting [0x22] (reading got budget { inState 0x00030007 .rrRead with latched := { rmode := 0, len := 3 } })

/-- The same in the read's first step, with a byte waiting. -/
def startOf3 : State := waiting [0x22] { inState 0x00030007 .rrRead with latched := { rmode := 0, len := 3 } }

theorem witness_ReadStoresEachByte :
    memoryCanonical (readOf3 2 9) ∧ memoryCanonical startOf3 ∧
    ((readOf3 2 9).engine.eng = .rrRead ∧ (gotInStep (readOf3 2 9)).toNat < (readOf3 2 9).latched.len.toNat ∧
      (readOf3 2 9).latched.len.toNat ≤ (readOf3 2 9).cfg.dbufBytes ∧ (readOf3 2 9).fifo.rxq = 0x22 :: [] ∧
      (gotInStep (readOf3 2 9)).toNat + 1 = (readOf3 2 9).latched.len.toNat) ∧
    budgetInStep (readOf3 0 0) = 0 ∧
    ((gotInStep (readOf3 0 9)).toNat + 1 ≠ (readOf3 0 9).latched.len.toNat ∧ budgetInStep (readOf3 0 9) ≠ 0) ∧
    (startOf3.rd.act = false ∧ gotInStep startOf3 = 0 ∧ budgetInStep startOf3 = startOf3.host.timeout) :=
  ⟨by unfold memoryCanonical; decide, by unfold memoryCanonical; decide, by decide⟩

theorem witness_ShortReadIsNoError :
    let s := reading 1 0 { inState 0x00080006 .vpRead with latched := { rmode := 0, len := 8 } }
    (s.engine.eng = .vpRead ∧ s.fifo.rxq = [] ∧ budgetInStep s = 0) ∧
    budgetInStep { s with rd := { s.rd with act := false } } = 0 ∧
    (budgetInStep (reading 1 1 s) ≠ 0 ∧ gotInStep (reading 1 1 s) ≠ s.latched.len) := by decide

/-- WRITE 3 in `RW_WRITE`. -/
def writeOf3 : State := { inState 0x00030008 .rwWrite with latched := { rmode := 0, len := 3 } }

theorem witness_WriteSteps :
    (writeOf3.engine.eng = .rwWrite ∧ writeOf3.wr.act = false ∧ canPush 3 writeOf3) ∧
    canPush 3 (writing 2 [1, 2, 3] 5 writeOf3) ∧
    (allStarted 3 (writing 3 [] 5 writeOf3) ∧ writeOf3.tx.busy = false) ∧
    (¬canPush 3 (writing 2 [1, 2, 3, 4] 0 writeOf3) ∧ ¬allStarted 3 (writing 2 [1, 2, 3, 4] 0 writeOf3) ∧
      (writeInStep (writing 2 [1, 2, 3, 4] 0 writeOf3)).stall = 0) ∧
    (¬canPush 3 (writing 3 [1] 1 writeOf3) ∧ ¬allStarted 3 (writing 3 [1] 1 writeOf3) ∧
      (writeInStep (writing 3 [1] 1 writeOf3)).stall ≠ 0) ∧
    writeOf3.latched.len.toNat = 3 ∧ ({ busy := true, cnt := 5, byte := 1 } : Transmitter).busy = true := by decide

theorem witness_ResetUnitModeStates :
    (inState 0x00000002 .decode).engine.eng = .decode ∧ (recovering .rsMode).engine.eng = .rsMode := by decide

theorem witness_ResetUnitPulseAndFinish :
    (inState 0x00000002 .rsAssert).engine.eng = .rsAssert ∧ (recovering .rsDeassert).engine.eng = .rsDeassert ∧
    ((inState 0x00000002 .rsFinish).engine.eng = .rsFinish ∧ (inState 0x00000002 .rsFinish).engine.ctx = .cmd) ∧
    (recovering .rsFinish).engine.ctx = .recovery := by decide

theorem witness_ResetUnitHolds :
    let s := inState 0x00000002 .rsHold1
    let slow := { s with cfg := { Params.setP with tickCycles := 4 } }
    let none := { s with cfg := { Params.setP with shortDelay := 0 } }
    (s.engine.eng = .rsHold1 ∧ (delayInStep s.cfg.shortDelay s).cnt ≠ 0 ∧ tick s = true) ∧
    ((delayInStep slow.cfg.shortDelay slow).cnt ≠ 0 ∧ tick slow = false) ∧
    (delayInStep none.cfg.shortDelay none).cnt = 0 ∧ (recovering .rsHold2).engine.eng = .rsHold2 := by decide

theorem witness_AltportHasNoEffect :
    sameButAltport (inState 0x00000402 .rsMode) { inState 0x00000402 .rsMode with latched := { rmode := 4, len := 0 } } := by
  unfold sameButAltport; decide

theorem witness_PatchedPayload :
    (2 ≤ ({ Params.setP with uvRecordSize := 2 } : Params).uvRecordSize ∧
      ({ Params.setP with uvRecordSize := 256 } : Params).uvRecordSize ≤ 256) ∧
    (idleE.host.uv.set 2 { en := true, value := 0x7F })[(2 : Fin 4)].en = true ∧
    ({ Params.setP with uvFlagPolicy := .writeOne } : Params).uvFlagPolicy = .writeOne ∧
    (∀ k : Fin 4, (idleE.host.uv.set 2 { en := true, value := 0x7F })[k].en = true →
      1018 ≠ 1024 - (3 - k.val) * 4 - 1) := by decide

theorem witness_LoadPluginStates :
    let s := inState 0x00000003 .ldPay
    (inState 0x00000003 .decode).engine.eng = .decode ∧
    (s.engine.eng = .ldPay ∧ s.wr.act = false ∧ canPush 1024 s ∧ canPush 1024 (writing 1023 [] 5 s)) ∧
    ((recovering .ldPay).engine.eng = .ldPay ∧ canPush 1024 (recovering .ldPay)) ∧
    (allStarted 1024 (writing 1024 [] 5 s) ∧ s.tx.busy = false) ∧
    (¬canPush 1024 (writing 7 [1, 2, 3, 4] 0 s) ∧ ¬allStarted 1024 (writing 7 [1, 2, 3, 4] 0 s) ∧
      (writeInStep (writing 7 [1, 2, 3, 4] 0 s)).stall = 0) ∧ (writeInStep (writing 7 [1, 2, 3, 4] 1 s)).stall ≠ 0 ∧
    ((inState 0x00000003 .ldFinish).engine.ctx = .cmd ∧ (recovering .ldFinish).engine.ctx = .recovery ∧
      (recovering .ldFinish).engine.eng = .ldFinish) := by decide

theorem witness_RunPluginStates :
    let s := writing 5 [] 5 (inState 0x00000004 .rnHdr)
    (inState 0x00000004 .decode).engine.eng = .decode ∧ (recovering .rnClear).engine.eng = .rnClear ∧
    s.engine.eng = .rnHdr ∧ s.engine.ctx = .cmd ∧ s.wr.act = true ∧ s.wr.idx = 5 ∧ s.fifo.txq = [] ∧
    s.tx.busy = false := by decide

theorem witness_FixedCodesAreSent :
    let code : List Byte := [0x7E, 0x00, 0x04, 0x00, 0xE7]
    let s := recovering .rnHdr
    (s.engine.ctx = .recovery ∧ s.wr.act = false ∧ canPush code.length s ∧
      canPush code.length (writing 4 [0, 4, 0] 5 s)) ∧
    (allStarted code.length (writing 5 [] 5 s) ∧ s.tx.busy = false) ∧
    (¬canPush code.length (writing 4 [0x7E, 0, 4, 0] 0 s) ∧ ¬allStarted code.length (writing 4 [0x7E, 0, 4, 0] 0 s) ∧
      (writeInStep (writing 4 [0x7E, 0, 4, 0] 0 s)).stall = 0) ∧
    (writeInStep (writing 4 [0x7E, 0, 4, 0] 1 s)).stall ≠ 0 ∧
    (inState 0x00000004 .rnHdr).engine.ctx = .cmd := by decide

theorem witness_PayloadHeaders :
    ((0x00 : Byte) ++ (0x00 : Byte) : BitVec 16) = 0 ∧
    (((0x00 : Byte) ++ (0x10 : Byte) : BitVec 16) ≠ 0 ∧
      ((0x00 : Byte) ++ (0x10 : Byte) : BitVec 16).toNat ≤ idleE.cfg.maxBlocks) ∧
    (((0x00 : Byte) ++ (0x11 : Byte) : BitVec 16) ≠ 0 ∧
      idleE.cfg.maxBlocks < ((0x00 : Byte) ++ (0x11 : Byte) : BitVec 16).toNat) := by decide

theorem witness_UndefinedTypesRefused :
    let s := waiting [0x05] (framing .readFormat)
    s.engine.eng = .pk ∧ s.engine.fs = .readFormat ∧ s.rd.act = false ∧ (reading 0 3 s).rd.got = 0 ∧
    s.fifo.rxq = 0x05 :: [] ∧ 5 ≤ (0x05 : Byte).toNat ∧ 5 ≤ (0xFF : Byte).toNat := by decide

theorem witness_ReadPacketStartAndEnd :
    (inState 0x00000005 .decode).engine.eng = .decode ∧
    ((framing .start).engine.eng = .pk ∧ (framing .start).engine.fs = .start) ∧
    ((framing .endState).engine.eng = .pk ∧ (framing .endState).engine.fs = .endState) := by decide

theorem witness_OneByteReads :
    let s := framing .readSizeHigh
    (s.engine.eng = .pk ∧ s.rd.act = false ∧ (waiting [0x00] s).fifo.rxq = 0x00 :: [] ∧
      s.engine.fs = .readSizeHigh) ∧
    (framing .readSizeLow).engine.fs = .readSizeLow ∧
    (framing .readRebootByteHigh).engine.fs = .readRebootByteHigh ∧
    (s.engine.fs ∈ [Framer.readSizeHigh, .readSizeLow, .readFormat, .readRebootByteHigh, .readRebootByteLow] ∧
      s.fifo.rxq = [] ∧ budgetInStep (reading 0 0 s) = 0 ∧ budgetInStep (reading 0 1 s) ≠ 0) := by decide

/-- `ReadData` of a packet of `size` bytes, at `i`, `j`, with a byte waiting and `got` bytes of the sub-read taken. -/
def payload (size i : BitVec 24) (j : BitVec 11) (got : BitVec 16) (budget : BitVec 32) : State :=
  waiting [0x42] (reading got budget
    { framing .readData with work := { hb := 0, blocks := 4, size := size, i := i, j := j, ftype := 1 } })

theorem witness_PacketBytesAreStored :
    let full := payload 1024 0 1000 23 9
    let last := payload 1280 1024 255 0 9
    let more := payload 1024 0 0 0 9
    let used := payload 1024 0 0 0 0
    let first := { payload 1024 0 0 7 9 with rd := { act := false, got := 7, budget := 9 } }
    memoryCanonical full ∧ memoryCanonical last ∧ memoryCanonical more ∧ memoryCanonical used ∧
    (full.engine.eng = .pk ∧ full.engine.fs = .readData ∧ full.fifo.rxq = 0x42 :: [] ∧
      (gotInStep full).toNat < subReadLength full ∧ full.work.j.toNat < 1024 ∧
      full.work.i.toNat + full.work.j.toNat ≤ full.work.size.toNat ∧ full.work.size.toNat ≤ full.cfg.pktMemBytes ∧
      (gotInStep full).toNat + 1 = subReadLength full ∧ full.work.j.toNat + ((gotInStep full).toNat + 1) = 1024) ∧
    ((gotInStep last).toNat + 1 = subReadLength last ∧ last.work.j.toNat + ((gotInStep last).toNat + 1) ≠ 1024) ∧
    ((gotInStep more).toNat + 1 < subReadLength more ∧ budgetInStep more ≠ 0) ∧
    ((gotInStep used).toNat + 1 < subReadLength used ∧ budgetInStep used = 0 ∧ used.cfg.chunkReadPolicy = .failOnZero) ∧
    (first.rd.act = false ∧ (gotInStep first).toNat < subReadLength first ∧ budgetInStep first = 0) ∧
    ({ used.cfg with chunkReadPolicy := .failOnShort } : Params).chunkReadPolicy = .failOnShort ∧
    ((framing .readData).rd.act = false ∧ (framing .readData).work.i.toNat + (framing .readData).work.j.toNat =
      (framing .readData).work.size.toNat) :=
  ⟨by unfold memoryCanonical; decide, by unfold memoryCanonical; decide, by unfold memoryCanonical; decide,
    by unfold memoryCanonical; decide, by decide⟩

theorem witness_ShortSubReads :
    let s := waiting [] (payload 1024 0 0 0 0)
    let t := waiting [] (payload 1024 0 0 1 0)
    let first := { s with rd := { act := false, got := 7, budget := 9 } }
    (s.engine.eng = .pk ∧ s.engine.fs = .readData ∧ s.fifo.rxq = [] ∧ (gotInStep s).toNat < subReadLength s ∧
      budgetInStep s = 0 ∧ gotInStep s = 0) ∧
    (gotInStep t ≠ 0 ∧ t.cfg.chunkReadPolicy = .failOnZero ∧ (gotInStep t).toNat < subReadLength t) ∧
    (gotInStep first = 0 ∧ budgetInStep first = 0) ∧ budgetInStep (reading 1 1 t) ≠ 0 ∧
    ({ t.cfg with chunkReadPolicy := .failOnShort } : Params).chunkReadPolicy = .failOnShort := by decide

theorem witness_RecoveryStates :
    let s := { framing .doReset with session := { rbyte := 2, rcount := 1 } }
    let t := { framing .doReset with session := { rbyte := 2, rcount := 0 } }
    (s.engine.eng = .pk ∧ s.engine.fs = .doReset ∧ s.session.rbyte ≤ s.session.rcount + 1) ∧
    t.session.rcount + 1 < t.session.rbyte ∧ (recovering .recCheck).engine.eng = .recCheck ∧
    (recovering .recCheck).status.pluginValid = false ∧
    ({ idleE.status with pluginValid := true } : Status).pluginValid = true ∧
    (let w := recovering .recWait
    let slow := { w with cfg := { Params.setP with tickCycles := 4 } }
    w.engine.eng = .recWait ∧ (delayInStep w.cfg.longDelay w).cnt ≠ 0 ∧ tick w = true ∧
      tick slow = false ∧ (delayInStep 0 w).cnt = 0) := by decide

theorem witness_RecoveryKeepsPosition :
    isRecoveryState (recovering .rsMode).engine.eng = true ∧
    ∃ t, exec .readPacket (recovering .rsMode) = .next t := ⟨by decide, _, rfl⟩

theorem witness_OnlyEndExposesThePacket :
    (framing .endState).status.pktValid = false ∧
    next? (exec .readPacket (framing .endState)) (fun t => t.status.pktValid) = true := by decide

theorem witness_LinesWrittenOnlyByResetStates :
    (∃ t, exec .nop idleE = .next t) ∧ idleE.engine.eng ≠ .rsMode ∧ idleE.engine.eng ≠ .rsAssert ∧
    idleE.engine.eng ≠ .rsDeassert := ⟨⟨_, rfl⟩, by decide⟩

theorem witness_EngineNeverWritesHostRegisters : (∃ t, exec .flush idleE = .next t) ∧ Instr.flush ≠ .imgClear :=
  ⟨⟨_, rfl⟩, by decide⟩

theorem witness_ResultAndLastError : ∃ t, exec (.read 0) (inState 7 .decode) = .next t := ⟨_, rfl⟩

/-- Every invariant at a state with a command in progress: a chunk of a payload being read, `txq` empty. -/
def midPayload : State := payload 4096 1024 7 3 9

theorem midPayload_engine : EngineConsistent midPayload where
  idleIff := by decide
  atRest := by decide
  owned := fun _ => ⟨.readPacket, by decide, by decide⟩
  framing := by decide
  notFraming := by decide
  recovering := by decide
  recoveryMode := by decide

theorem witness_StepKeepsMemoryCanonical : memoryCanonical midPayload ∧ ∃ t, step midPayload = .next t :=
  ⟨by unfold memoryCanonical; decide, answers_of_next (by decide)⟩

theorem witness_StepKeepsFifosBounded : fifosBounded midPayload ∧ ∃ t, step midPayload = .next t :=
  ⟨by unfold fifosBounded; decide, answers_of_next (by decide)⟩

theorem witness_StepKeepsThresholdAndHiding :
    thresholdBounded midPayload ∧ packetHidden midPayload ∧ ∃ t, step midPayload = .next t :=
  ⟨by unfold thresholdBounded; decide, by unfold packetHidden; decide, answers_of_next (by decide)⟩

theorem witness_ConsistentEngineNeverStops : EngineConsistent midPayload := midPayload_engine

theorem witness_StepKeepsWritesConsistent : WriteConsistent midPayload ∧ ∃ t, step midPayload = .next t :=
  ⟨⟨midPayload_engine, by decide, by decide⟩, answers_of_next (by decide)⟩

theorem witness_StepKeepsFramerConsistent : ∃ s t, FramerConsistent s ∧ step s = .next t :=
  ⟨{ midPayload with work := { midPayload.work with blocks := 16 } }, _,
    { engine := ⟨by decide, by decide, fun _ => ⟨.readPacket, by decide, by decide⟩, by decide, by decide, by decide,
        by decide⟩
      sizeIs := by decide, inside := by decide, chunk := by decide, fresh := by decide, boundary := by decide
      wholeChunks := by decide, request := by decide }, (answers_of_next (by decide)).choose_spec⟩

end Sys2Proof.Tests
end

/-! PROOFS. The host register window (20_memory.md): the laws of the register map, of the busy rule, of the result
views and of the data ports, and the statements they settle. -/

namespace Sys2Proof.Machine

/-! ### The register map (R61, R62) -/

/-- The low two address bits do not choose the register (R61). -/
theorem regAt_and_mask (addr : BitVec 8) : regAt (addr &&& 0xFC) = regAt addr := by
  have hmask : addr &&& 0xFC &&& 0xFC = addr &&& 0xFC := by rw [BitVec.and_assoc, BitVec.and_self]
  unfold regAt
  rw [hmask]

/-- From offset 0x60 on there is no register (R63): every named offset of the map is smaller. -/
theorem regAt_eq_reserved (addr : BitVec 8) (h : 0x60 ≤ (addr &&& 0xFC).toNat) : regAt addr = .reserved := by
  unfold regAt
  generalize (addr &&& 0xFC).toNat = off at h
  split
  case h_25 => rfl
  all_goals exact absurd h (by decide)

/-! ### The busy rule (R66, R69) -/

section
variable (r : Reg) (data : Word) (s : State)

/-- Idle, a write follows the register's own rule. -/
theorem writeReg_of_idle (h : s.status.busy = false) : writeReg r data s = writeIdle r data s := by
  simp [writeReg, h]

/-- Busy, a write to any register but `STATUS` is rejected (R66). -/
theorem writeReg_of_busy (h : s.status.busy = true) (hr : r ≠ .status) : writeReg r data s = rejectWrite s := by
  simp [writeReg, h, hr]

/-- `STATUS` is written busy or not (R69). -/
@[simp] theorem writeReg_status : writeReg .status data s = clearSticky data s := by
  cases h : s.status.busy <;> simp [writeReg, writeIdle, h]

/-- A framing error sets `RX_FERR` (R133). -/
@[simp] theorem receive_ferr : receive .ferr s = { s with status.rxFerr := true } := rfl

/-- A byte that finds `rxq` full is dropped with `RX_OVR` (R132). -/
theorem receive_byte_full (b : Byte) (h : s.cfg.rxFifoDepth ≤ s.fifo.rxq.length) :
    receive (.byte b) s = { s with status.rxOvr := true } := by
  simp [receive, not_lt.mpr h]

end

/-! ### The status word (R68) -/

section
variable {n : Nat} (x : BitVec n) (b6 b5 b4 b3 b2 b1 b0 : Bool)

/-- Seven flags below a word: bit `k` is flag `k`, and from bit 7 on the word. -/
theorem getLsbD_append_flags (k : Nat) :
    (x ++ BitVec.ofBool b6 ++ BitVec.ofBool b5 ++ BitVec.ofBool b4 ++ BitVec.ofBool b3 ++ BitVec.ofBool b2 ++
      BitVec.ofBool b1 ++ BitVec.ofBool b0).getLsbD k =
      if k < 7 then [b0, b1, b2, b3, b4, b5, b6].getD k false else x.getLsbD (k - 7) := by
  rcases k with _ | _ | _ | _ | _ | _ | _ | k <;>
    simp [BitVec.getLsbD_append, BitVec.getElem_append]

/-- A field above seven flags is a field of the word above them. -/
theorem extractLsb'_append_flags (k len : Nat) :
    (x ++ BitVec.ofBool b6 ++ BitVec.ofBool b5 ++ BitVec.ofBool b4 ++ BitVec.ofBool b3 ++ BitVec.ofBool b2 ++
      BitVec.ofBool b1 ++ BitVec.ofBool b0).extractLsb' (k + 7) len = x.extractLsb' k len := by
  refine BitVec.eq_of_getLsbD_eq fun j _ => ?_
  have hk : ¬k + 7 + j < 7 := by omega
  have hsub : k + 7 + j - 7 = k + j := by omega
  rw [BitVec.getLsbD_extractLsb', BitVec.getLsbD_extractLsb', getLsbD_append_flags, if_neg hk, hsub]

end

/-- A field above the low part of a word is a field of the high part. -/
theorem extractLsb'_append_above {n m : Nat} (hi : BitVec n) (lo : BitVec m) (k len : Nat) :
    (hi ++ lo).extractLsb' (k + m) len = hi.extractLsb' k len := by
  rw [BitVec.extractLsb'_append_eq_of_le (Nat.le_add_left m k), Nat.add_sub_cancel]

/-- The ten codes of R114. -/
theorem framerCode_of_mem : ∀ f ∈ [(Framer.idle, (0 : BitVec 4)), (.start, 1), (.readSizeHigh, 2), (.readSizeLow, 3),
    (.readFormat, 4), (.readData, 5), (.doReset, 6), (.readRebootByteHigh, 7), (.readRebootByteLow, 8),
    (.endState, 9)], framerCode f.1 = f.2 := by
  decide

/-- The eight lowest bits of `STATUS`, one by one. -/
theorem statusWord_flags (s : State) :
    (statusWord s).getLsbD 0 = s.status.busy ∧ (statusWord s).getLsbD 1 = s.status.pktValid ∧
    (statusWord s).getLsbD 2 = s.status.pluginValid ∧ (statusWord s).getLsbD 3 = powerOn s ∧
    (statusWord s).getLsbD 4 = s.status.cmdRej ∧ (statusWord s).getLsbD 5 = s.status.rxOvr ∧
    (statusWord s).getLsbD 6 = s.status.rxFerr ∧ (statusWord s).getLsbD 7 = false := by
  have flag := getLsbD_append_flags (0#12 ++ framerCode s.engine.fs ++ 0#4 ++ s.status.result ++ 0#1)
    s.status.rxFerr s.status.rxOvr s.status.cmdRej (powerOn s) s.status.pluginValid s.status.pktValid s.status.busy
  have gap : (0#12 ++ framerCode s.engine.fs ++ 0#4 ++ s.status.result ++ 0#1).getLsbD 0 = false :=
    BitVec.getLsbD_append
  exact ⟨flag 0, flag 1, flag 2, flag 3, flag 4, flag 5, flag 6, (flag 7).trans gap⟩

/-- The fields of `STATUS` above the flags. -/
theorem statusWord_fields (s : State) :
    (statusWord s).extractLsb' 8 4 = s.status.result ∧ (statusWord s).extractLsb' 12 4 = 0 ∧
    (statusWord s).extractLsb' 16 4 = framerCode s.engine.fs ∧ (statusWord s).extractLsb' 20 12 = 0 := by
  have field := extractLsb'_append_flags (0#12 ++ framerCode s.engine.fs ++ 0#4 ++ s.status.result ++ 0#1)
    s.status.rxFerr s.status.rxOvr s.status.cmdRej (powerOn s) s.status.pluginValid s.status.pktValid s.status.busy
  refine ⟨(field 1 4).trans ?_, (field 5 4).trans ?_, (field 9 4).trans ?_, (field 13 12).trans ?_⟩
  · rw [extractLsb'_append_above _ 0#1 0]
    exact BitVec.extractLsb'_append_eq_right
  · rw [extractLsb'_append_above _ 0#1 4, extractLsb'_append_above _ s.status.result 0]
    exact BitVec.extractLsb'_append_eq_right
  · rw [extractLsb'_append_above _ 0#1 8, extractLsb'_append_above _ s.status.result 4,
      extractLsb'_append_above _ 0#4 0]
    exact BitVec.extractLsb'_append_eq_right
  · rw [extractLsb'_append_above _ 0#1 12, extractLsb'_append_above _ s.status.result 8,
      extractLsb'_append_above _ 0#4 4, extractLsb'_append_above _ (framerCode s.engine.fs) 0]
    exact BitVec.extractLsb'_eq_self

/-! ### The result views (R74, R76) -/

section
variable (s : State)

theorem gated_of_valid {n : Nat} (v : BitVec n) (h : s.status.pktValid = true) : gated s v = v.setWidth 32 := by
  simp [gated, h]

theorem gated_of_not_valid {n : Nat} (v : BitVec n) (h : s.status.pktValid = false) : gated s v = 0 := by
  simp [gated, h]

/-- With a packet held, `PKT_DATA` shows `PKT_MEM` below `size`. -/
theorem pktDataByte_inside (h : s.status.pktValid = true) (hp : s.host.pktPtr < s.work.size) :
    pktDataByte s = memRead .pkt s.host.pktPtr.toNat s :=
  if_pos ⟨h, hp⟩

/-- At `size` and above, `PKT_DATA` shows nothing. -/
theorem pktDataByte_beyond (hp : s.work.size ≤ s.host.pktPtr) : pktDataByte s = 0 :=
  if_neg fun hc => BitVec.not_lt.mpr hp hc.2

/-- Without a packet, `PKT_DATA` shows nothing. -/
theorem pktDataByte_of_not_valid (h : s.status.pktValid = false) : pktDataByte s = 0 :=
  if_neg fun hc => Bool.false_ne_true (h.symm.trans hc.1)

end

/-! ### The data ports (R78, R81) -/

section
variable (id : MemId) (a : Nat) (v : Byte) (s : State)

/-- Outside its bytes a memory reads 0. -/
theorem memRead_outside (h : memBytes s.cfg id ≤ a) : memRead id a s = 0 := if_neg (not_lt.mpr h)

/-- Outside its bytes a memory stores nothing. -/
theorem memWrite_outside (h : memBytes s.cfg id ≤ a) : memWrite id a v s = s := if_neg (not_lt.mpr h)

/-- The memories after a write inside `id`: the byte written reads back, every other byte of every memory is as it
was. -/
theorem memWrite_mem_reads (hs : memoryCanonical s) (ha : a < memBytes s.cfg id) :
    memRead id a { s with mem := (memWrite id a v s).mem } = v ∧
    ∀ id' a', (id' ≠ id ∨ a' ≠ a) → memRead id' a' { s with mem := (memWrite id a v s).mem } = memRead id' a' s := by
  rw [← memWrite_eq]
  exact ⟨memRead_memWrite_same id a v s hs ha, fun id' a' h =>
    memRead_memWrite_other id id' a a' v s (h.imp Ne.symm Ne.symm)⟩

/-- A write of `IMG_DATA` changes the memories, the pointer and `PLUGIN_VALID` only. -/
theorem writeImgData_eq :
    writeImgData v s = { s with
      mem := (memWrite .img s.host.imgPtr.toNat v s).mem
      host.imgPtr := s.host.imgPtr + 1, status.pluginValid := false } := by
  unfold writeImgData
  rw [memWrite_eq]

/-- A write of `DBUF_DATA` changes the memories and the pointer only. -/
theorem writeDbufData_eq :
    writeDbufData v s = { s with
      mem := (memWrite .dbuf s.host.dbufPtr.toNat v s).mem, host.dbufPtr := s.host.dbufPtr + 1 } := by
  unfold writeDbufData
  rw [memWrite_eq]

/-- Outside the buffer a write of `DBUF_DATA` moves the pointer only. -/
theorem writeDbufData_outside (h : s.cfg.dbufBytes ≤ s.host.dbufPtr.toNat) :
    writeDbufData v s = { s with host.dbufPtr := s.host.dbufPtr + 1 } := by
  rw [writeDbufData_eq, memWrite_outside .dbuf _ v s h]

end

/-! ### The statements -/

/-- Settles O12: beyond the map `regAt` answers `reserved`, whose rules are empty. -/
theorem reservedOffsetsReadZero : Obligations.ReservedOffsetsReadZero := by
  refine ⟨regAt_and_mask, fun addr data s haddr => ?_⟩
  rw [regAt_eq_reserved addr haddr]
  exact ⟨rfl, rfl, writeReg_of_idle .reserved data s,
    fun hbusy => writeReg_of_busy .reserved data s hbusy (by decide)⟩

/-- Settles O13: the busy rule, the write of `STATUS`, and P2 after it. -/
theorem busyWritesAndStickyFlags : Obligations.BusyWritesAndStickyFlags := by
  refine ⟨fun s r data => writeReg_of_busy r data s, fun s data => writeReg_status data s, ?_, ?_⟩
  · intro s data
    rw [receive_ferr]
  · intro s data b hfull
    rw [writeReg_status, receive_byte_full (clearSticky data s) b hfull]

/-- Settles O17, by whether a packet is held, and where the pointer stands. -/
theorem resultViewsAreGated : Obligations.ResultViewsAreGated := by
  intro s data
  refine ⟨fun hv => ?_, fun hv => ?_, rfl, fun hidle r hr => ?_⟩
  · refine ⟨gated_of_valid s _ hv, gated_of_valid s _ hv, gated_of_valid s _ hv, gated_of_valid s _ hv, ?_, ?_⟩
    · intro hin
      exact congrArg (BitVec.setWidth 32) (pktDataByte_inside s hv hin)
    · intro hout
      exact congrArg (BitVec.setWidth 32) (pktDataByte_beyond s hout)
  · exact ⟨gated_of_not_valid s _ hv, gated_of_not_valid s _ hv, gated_of_not_valid s _ hv,
      gated_of_not_valid s _ hv, congrArg (BitVec.setWidth 32) (pktDataByte_of_not_valid s hv)⟩
  · rw [writeReg_of_idle r data s hidle]
    simp only [List.mem_cons, List.not_mem_nil, or_false] at hr
    rcases hr with rfl | rfl | rfl | rfl | rfl <;> rfl

/-- Settles O18: `IMG_PTR` is always inside `IMG`, so the byte written reads back. -/
theorem imgDataPort : Obligations.ImgDataPort := by
  intro s data hs
  have hin : s.host.imgPtr.toNat < memBytes s.cfg .img := s.host.imgPtr.isLt
  refine ⟨rfl, rfl, fun hidle => ⟨_, ?_, memWrite_mem_reads .img _ _ s hs hin⟩⟩
  rw [writeReg_of_idle _ _ _ hidle]
  exact writeImgData_eq _ s

/-- Settles O19, by whether `DBUF_PTR` is inside the buffer. -/
theorem dbufDataPort : Obligations.DbufDataPort := by
  intro s data hs
  refine ⟨fun hin => ⟨rfl, fun hidle => ⟨_, ?_, memWrite_mem_reads .dbuf _ _ s hs hin⟩⟩,
    fun hout => ⟨?_, fun hidle => ?_⟩, rfl⟩
  · rw [writeReg_of_idle _ _ _ hidle]
    exact writeDbufData_eq _ s
  · exact congrArg (BitVec.setWidth 32) (memRead_outside .dbuf _ s hout)
  · rw [writeReg_of_idle _ _ _ hidle]
    exact writeDbufData_outside _ s hout

/-- Settles O14: the layout of the word, and the ten codes of R114. -/
theorem statusFields : Obligations.StatusFields := by
  intro s
  obtain ⟨hbusy, hpkt, hplugin, hpower, hrej, hovr, hferr, hbit7⟩ := statusWord_flags s
  obtain ⟨hresult, hgap, hfsm, htop⟩ := statusWord_fields s
  refine ⟨hbusy, hpkt, hplugin, hpower, hrej, hovr, hferr, hbit7, hresult, hgap, fun f hf hfs => ?_, htop⟩
  exact hfsm.trans (hfs ▸ framerCode_of_mem f hf)

end Sys2Proof.Machine

/-! PROOFS. The length operand (30_encoding.md, R95): when it is in range, what its check answers, and that the
dispatch step of READ, WRITE and GET_VERSION is this check. -/

namespace Sys2Proof.Machine

/-! ### The check of R95 -/

section
variable (len : BitVec 16) (next : State → State) (s : State)

/-- The range of R95, in numbers. -/
theorem lenFits_iff (p : Params) : lenFits p len = true ↔ 1 ≤ len.toNat ∧ len.toNat ≤ p.dbufBytes := by
  have hpos : len ≠ 0 ↔ 1 ≤ len.toNat := (not_congr BitVec.toNat_eq).trans Nat.one_le_iff_ne_zero.symm
  rw [lenFits, Bool.and_eq_true, decide_eq_true_iff, decide_eq_true_iff, hpos]

/-- A length in range is latched, and the command goes on. -/
theorem withLen_of_inRange (hpos : 1 ≤ len.toNat) (hmax : len.toNat ≤ s.cfg.dbufBytes) :
    withLen len next s = next { s with latched.len := len } :=
  if_pos ((lenFits_iff len s.cfg).mpr ⟨hpos, hmax⟩)

/-- A length of 0 or above `DBUF_BYTES` is refused, whatever the command would have done next. -/
theorem withLen_of_outOfRange (hout : len = 0 ∨ s.cfg.dbufBytes < len.toNat) :
    withLen len next s = raiseError .invalidParams s := by
  have hrefused : ¬ lenFits s.cfg len = true := by
    rw [lenFits_iff]
    rintro ⟨hpos, hmax⟩
    rcases hout with rfl | habove
    · exact absurd hpos (by decide)
    · exact absurd hmax (not_le.mpr habove)
  exact if_neg hrefused

end

/-! ### The dispatch steps -/

section
variable (len : BitVec 16) (s : State) (h : s.engine.eng = .decode)
include h

/-- READ at dispatch (R153). -/
theorem exec_read_of_decode : exec (.read len) s = .next (withLen len (gotoEng .rrRead) s) := by
  simp only [exec, execRead, h]

/-- WRITE at dispatch (R154). -/
theorem exec_write_of_decode : exec (.write len) s = .next (withLen len (gotoEng .rwWrite) s) := by
  simp only [exec, execWrite, h]

/-- GET_VERSION at dispatch (R291): the flush stands behind the check. -/
theorem exec_getVersion_of_decode :
    exec (.getVersion len) s = .next (withLen len (fun t => gotoEng .vpSend (flushFifos t)) s) := by
  simp only [exec, execGetVersion, h]

end

/-! ### The statement -/

/-- Settles O28: the three dispatch steps are one check, in range or not. -/
theorem lengthOperandsAtDispatch : Obligations.LengthOperandsAtDispatch := by
  intro s len hdecode
  refine ⟨fun hpos hmax => ⟨?_, ?_, ?_⟩, fun hout i hi => ?_⟩
  · rw [exec_read_of_decode len s hdecode, withLen_of_inRange len _ s hpos hmax]
    rfl
  · rw [exec_write_of_decode len s hdecode, withLen_of_inRange len _ s hpos hmax]
    rfl
  · rw [exec_getVersion_of_decode len s hdecode, withLen_of_inRange len _ s hpos hmax]
    rfl
  · have hrefused : exec i s = .next (raiseError .invalidParams s) := by
      simp only [List.mem_cons, List.not_mem_nil, or_false] at hi
      rcases hi with rfl | rfl | rfl
      · rw [exec_read_of_decode len s hdecode, withLen_of_outOfRange len _ s hout]
      · rw [exec_write_of_decode len s hdecode, withLen_of_outOfRange len _ s hout]
      · rw [exec_getVersion_of_decode len s hdecode, withLen_of_outOfRange len _ s hout]
    exact hrefused

end Sys2Proof.Machine

/-! PROOFS. The reset sequencer (42_reset_sequencer.md): the step of each `RS_*` state, the same for RESET_UNIT and for
recovery; the dispatch step; and that no step reads the latched ALTPORT bit. -/

namespace Sys2Proof.Machine

/-! ### The step of each state (R192 to R197) -/

/-- The step of the reset sequence in state `e`: `exec_of_resetState` ties it to `exec`. -/
def resetSeqStep (e : Eng) (s : State) : State :=
  match e with
  | .rsMode => rsMode s
  | .rsAssert => rsAssert s
  | .rsHold1 => rsHold1 s
  | .rsDeassert => rsDeassert s
  | .rsHold2 => rsHold2 s
  | .rsFinish => rsFinish s
  | _ => s

/-- The six states of the sequence. -/
theorem isResetState_cases {e : Eng} (h : isResetState e = true) :
    e = .rsMode ∨ e = .rsAssert ∨ e = .rsHold1 ∨ e = .rsDeassert ∨ e = .rsHold2 ∨ e = .rsFinish := by
  simpa [isResetState] using h

/-- RESET_UNIT and recovery run the sequence by the same steps (R190, R255). -/
theorem exec_of_resetState {s : State} {pm nr ap : Bool} {e : Eng} (he : s.engine.eng = e)
    (hreset : isResetState e = true) {i : Instr} (hi : i ∈ [Instr.resetUnit pm nr ap, .readPacket]) :
    exec i s = .next (resetSeqStep e s) := by
  simp only [List.mem_cons, List.not_mem_nil, or_false] at hi
  rcases hi with rfl | rfl
  · rcases isResetState_cases hreset with rfl | rfl | rfl | rfl | rfl | rfl <;>
      simp only [exec, execResetUnit, resetSeqStep, he]
  · rcases isResetState_cases hreset with rfl | rfl | rfl | rfl | rfl | rfl <;>
      simp only [exec, execReadPacket, resetSeqStep, he]

/-- Outside the sequence RESET_UNIT runs its dispatch step: the mode is latched, and `RS_MODE` is
next (R191). -/
theorem exec_resetUnit_of_not_resetState (s : State) (pm nr ap : Bool)
    (h : isResetState s.engine.eng = false) :
    exec (.resetUnit pm nr ap) s = .next (gotoEng .rsMode { s with latched.rmode := modeBits pm nr ap }) := by
  have hexec : exec (.resetUnit pm nr ap) s = execResetUnit pm nr ap s := rfl
  rw [hexec]
  unfold execResetUnit
  split
  case h_7 => rfl
  all_goals next he => exact absurd h (by rw [he]; decide)

/-- The host's sequence ends by completing the command (R197). -/
theorem rsFinish_of_cmd (s : State) (h : s.engine.ctx = .cmd) : rsFinish s = complete (flushFifos s) := if_pos h

/-- Recovery's sequence goes on to `REC_CHECK` (R197). -/
theorem rsFinish_of_recovery (s : State) (h : s.engine.ctx = .recovery) :
    rsFinish s = gotoEng .recCheck (flushFifos s) :=
  if_neg (by rw [h]; decide)

/-- The latched bits of the mode operand (R94). -/
theorem modeBits_getLsbD : ∀ pm nr ap : Bool, (modeBits pm nr ap).getLsbD 0 = pm ∧
    (modeBits pm nr ap).getLsbD 1 = nr ∧ (modeBits pm nr ap).getLsbD 2 = ap := by
  decide

/-! ### The latched mode and the steps (R201) -/

/-- The state with `m` latched as its mode. -/
def withRmode (m : BitVec 3) (s : State) : State := { s with latched.rmode := m }

/-- Differing at most in the ALTPORT bit is holding another mode with the same two lower bits. -/
theorem sameButAltport_iff (s t : State) :
    sameButAltport s t ↔ ∃ m, t = withRmode m s ∧ m.getLsbD 0 = s.latched.rmode.getLsbD 0 ∧
      m.getLsbD 1 = s.latched.rmode.getLsbD 1 := by
  constructor
  · rintro ⟨ht, hplay, hskip⟩
    exact ⟨t.latched.rmode, ht, hplay, hskip⟩
  · rintro ⟨m, rfl, hplay, hskip⟩
    exact ⟨rfl, hplay, hskip⟩

/-- Two such states are in the same engine state. -/
theorem engine_of_sameButAltport {s t : State} (h : sameButAltport s t) : t.engine = s.engine := by
  obtain ⟨m, rfl, -, -⟩ := (sameButAltport_iff s t).mp h
  rfl

section
variable (m : BitVec 3) (s : State)

/-- `RS_MODE` reads the two lower bits of the mode only (R192). -/
theorem rsMode_withRmode (hplay : m.getLsbD 0 = s.latched.rmode.getLsbD 0)
    (hskip : m.getLsbD 1 = s.latched.rmode.getLsbD 1) : rsMode (withRmode m s) = withRmode m (rsMode s) := by
  simp only [rsMode, withRmode, hplay, hskip]

/-- A delay does not read the mode. -/
theorem waitThen_withRmode (n : BitVec 32) (e : Eng) :
    waitThen n (gotoEng e) (withRmode m s) = withRmode m (waitThen n (gotoEng e) s) := by
  have hdelay : delayInStep n (withRmode m s) = delayInStep n s := rfl
  have htick : tick (withRmode m s) = tick s := rfl
  rw [waitThen_step, waitThen_step, hdelay, htick]
  split_ifs <;> rfl

/-- A delay keeps the latched operands. -/
theorem waitThen_latched (n : BitVec 32) (e : Eng) : (waitThen n (gotoEng e) s).latched = s.latched := by
  rw [waitThen_step]
  split_ifs <;> rfl

/-- The end of the sequence does not read the mode. -/
theorem rsFinish_withRmode : rsFinish (withRmode m s) = withRmode m (rsFinish s) := by
  cases h : s.engine.ctx
  · rw [rsFinish_of_cmd s h, rsFinish_of_cmd (withRmode m s) h]
    rfl
  · rw [rsFinish_of_recovery s h, rsFinish_of_recovery (withRmode m s) h]
    rfl

/-- The end of the sequence keeps the latched operands. -/
theorem rsFinish_latched : (rsFinish s).latched = s.latched := by
  cases h : s.engine.ctx
  · rw [rsFinish_of_cmd s h]
    rfl
  · rw [rsFinish_of_recovery s h]
    rfl

variable {e : Eng} (hreset : isResetState e = true)
include hreset

/-- No step of the sequence tells modes with the same two lower bits apart. -/
theorem resetSeqStep_withRmode (hplay : m.getLsbD 0 = s.latched.rmode.getLsbD 0)
    (hskip : m.getLsbD 1 = s.latched.rmode.getLsbD 1) :
    resetSeqStep e (withRmode m s) = withRmode m (resetSeqStep e s) := by
  rcases isResetState_cases hreset with rfl | rfl | rfl | rfl | rfl | rfl
  · exact rsMode_withRmode m s hplay hskip
  · rfl
  · exact waitThen_withRmode m s s.cfg.shortDelay .rsDeassert
  · rfl
  · exact waitThen_withRmode m s s.cfg.shortDelay .rsFinish
  · exact rsFinish_withRmode m s

/-- No step of the sequence changes the latched operands. -/
theorem resetSeqStep_latched : (resetSeqStep e s).latched = s.latched := by
  rcases isResetState_cases hreset with rfl | rfl | rfl | rfl | rfl | rfl
  · rfl
  · rfl
  · exact waitThen_latched s s.cfg.shortDelay .rsDeassert
  · rfl
  · exact waitThen_latched s s.cfg.shortDelay .rsFinish
  · exact rsFinish_latched s

end

/-- A step of the sequence keeps two states the same but for the ALTPORT bit. -/
theorem resetSeqStep_sameButAltport {e : Eng} (hreset : isResetState e = true) {s t : State}
    (h : sameButAltport s t) : sameButAltport (resetSeqStep e s) (resetSeqStep e t) := by
  obtain ⟨m, rfl, hplay, hskip⟩ := (sameButAltport_iff s t).mp h
  refine (sameButAltport_iff _ _).mpr ⟨m, resetSeqStep_withRmode m s hreset hplay hskip, ?_, ?_⟩
  · rw [resetSeqStep_latched s hreset, hplay]
  · rw [resetSeqStep_latched s hreset, hskip]

/-- The dispatch step with ALTPORT set or clear leaves the two states the same but for that bit: whatever mode was
latched before is overwritten. -/
theorem dispatch_sameButAltport {s t : State} (h : sameButAltport s t) (pm nr ap ap' : Bool) :
    sameButAltport (gotoEng .rsMode { s with latched.rmode := modeBits pm nr ap })
      (gotoEng .rsMode { t with latched.rmode := modeBits pm nr ap' }) := by
  obtain ⟨m, rfl, -, -⟩ := (sameButAltport_iff s t).mp h
  obtain ⟨hplay, hskip, -⟩ := modeBits_getLsbD pm nr ap
  obtain ⟨hplay', hskip', -⟩ := modeBits_getLsbD pm nr ap'
  exact (sameButAltport_iff _ _).mpr ⟨modeBits pm nr ap', rfl, hplay'.trans hplay.symm, hskip'.trans hskip.symm⟩

/-! ### The statements -/

/-- Settles O35, by whether the step is one of the sequence or the dispatch step. -/
theorem altportHasNoEffect : Obligations.AltportHasNoEffect := by
  intro s s' pm nr ap ap' hsame
  have heng : s'.engine.eng = s.engine.eng := by rw [engine_of_sameButAltport hsame]
  cases hreset : isResetState s.engine.eng
  · have hreset' : isResetState s'.engine.eng = false := heng ▸ hreset
    exact ⟨_, _, exec_resetUnit_of_not_resetState s pm nr ap hreset,
      exec_resetUnit_of_not_resetState s' pm nr ap' hreset', dispatch_sameButAltport hsame pm nr ap ap'⟩
  · exact ⟨_, _, exec_of_resetState rfl hreset (List.mem_cons_self ..),
      exec_of_resetState heng hreset (List.mem_cons_self ..), resetSeqStep_sameButAltport hreset hsame⟩

/-- Settles O32: the dispatch step latches the operand's bits, and `RS_MODE` is the same step in both contexts. -/
theorem resetUnitModeStates : Obligations.ResetUnitModeStates := by
  intro s pm nr ap
  refine ⟨fun hdecode => ?_, fun hmode i hi => exec_of_resetState hmode rfl hi⟩
  obtain ⟨hplay, hskip, halt⟩ := modeBits_getLsbD pm nr ap
  exact ⟨modeBits pm nr ap, hplay, hskip, halt, exec_resetUnit_of_not_resetState s pm nr ap (by rw [hdecode]; rfl)⟩

/-- Settles O33: each clause is the step of its state; the end, by its context. -/
theorem resetUnitPulseAndFinish : Obligations.ResetUnitPulseAndFinish := by
  intro s pm nr ap i hi
  refine ⟨fun hassert => exec_of_resetState hassert rfl hi, fun hdeassert => exec_of_resetState hdeassert rfl hi,
    fun hfinish hcmd => ?_, fun hfinish hrec => ?_⟩
  · have hstep : exec i s = .next (rsFinish s) := exec_of_resetState hfinish rfl hi
    rw [hstep, rsFinish_of_cmd s hcmd]
    rfl
  · have hstep : exec i s = .next (rsFinish s) := exec_of_resetState hfinish rfl hi
    rw [hstep, rsFinish_of_recovery s hrec]
    rfl

end Sys2Proof.Machine

/-! PROOFS. The plugin loader (43_plugin_loader.md): the payload slot by slot, a step of a state that holds a write, the
steps of the `LD_*` and `RN_*` states, and the statements they settle. -/

namespace Sys2Proof.Machine

/-! ### One slot of the patch (R213, R214) -/

/-- One past the last byte of record `k` (R213). -/
def recordEnd (p : Params) (k : Nat) : Nat := 1024 - (3 - k) * p.uvRecordSize

/-- The patch of slot `k` falls on the byte at `off`: `patchSlot_of_not_touched` and the two lemmas after it tie this
to `patchSlot`. -/
def slotTouches (p : Params) (k : Nat) (u : UserVar) (off : Nat) : Prop :=
  u.en = true ∧ (off = recordEnd p k - 1 ∨ (off = recordEnd p k - 2 ∧ p.uvFlagPolicy = .writeOne))

section
variable (p : Params) (k : Nat) (u : UserVar) (off : Nat) (b : Byte)

/-- `patchSlot` in terms of the end of its record. -/
theorem patchSlot_eq :
    patchSlot p k u off b =
      if u.en then
        if off = recordEnd p k - 1 then u.value
        else if off = recordEnd p k - 2 ∧ p.uvFlagPolicy = .writeOne then 0x01
        else b
      else b :=
  rfl

/-- A disabled slot changes nothing, and an enabled one nothing but its own bytes (R214, R215). -/
theorem patchSlot_of_not_touched (h : ¬slotTouches p k u off) : patchSlot p k u off b = b := by
  rw [patchSlot_eq]
  split
  next hen => rw [if_neg fun hvalue => h ⟨hen, .inl hvalue⟩, if_neg fun hflag => h ⟨hen, .inr hflag⟩]
  next => rfl

/-- The value byte of an enabled slot. -/
theorem patchSlot_value (hen : u.en = true) : patchSlot p k u (recordEnd p k - 1) b = u.value := by
  rw [patchSlot_eq, if_pos hen, if_pos rfl]

/-- The flag byte of an enabled slot under `write_one`. -/
theorem patchSlot_flag (hen : u.en = true) (hpolicy : p.uvFlagPolicy = .writeOne) (hend : 2 ≤ recordEnd p k) :
    patchSlot p k u (recordEnd p k - 2) b = 0x01 := by
  have hapart : recordEnd p k - 2 ≠ recordEnd p k - 1 := by omega
  rw [patchSlot_eq, if_pos hen, if_neg hapart, if_pos ⟨rfl, hpolicy⟩]

end

/-! ### The four records are disjoint (R214) -/

section
variable {p : Params} (hmin : 2 ≤ p.uvRecordSize) (hmax : p.uvRecordSize ≤ 256)
include hmax

/-- All four records lie inside the image. -/
theorem two_le_recordEnd (k : Nat) : 2 ≤ recordEnd p k := by
  have hbelow : (3 - k) * p.uvRecordSize ≤ 3 * 256 := Nat.mul_le_mul (Nat.sub_le 3 k) hmax
  unfold recordEnd
  omega

include hmin

/-- A record ends at least two bytes above the one before it. -/
theorem recordEnd_add_two_le {j k : Nat} (hjk : j < k) (hk : k ≤ 3) : recordEnd p j + 2 ≤ recordEnd p k := by
  have hbelow : (3 - j) * p.uvRecordSize ≤ 3 * 256 := Nat.mul_le_mul (Nat.sub_le 3 j) hmax
  have hstep : (3 - k + 1) * p.uvRecordSize ≤ (3 - j) * p.uvRecordSize := Nat.mul_le_mul_right _ (by omega)
  rw [Nat.add_mul, Nat.one_mul] at hstep
  unfold recordEnd
  omega

/-- Slots that touch the same byte are one slot. -/
theorem slotTouches_unique {j k : Fin 4} {u v : UserVar} {off : Nat} (hj : slotTouches p j u off)
    (hk : slotTouches p k v off) : j = k := by
  obtain ⟨-, hoffj⟩ := hj
  obtain ⟨-, hoffk⟩ := hk
  have hendj := two_le_recordEnd hmax j
  have hendk := two_le_recordEnd hmax k
  rcases lt_trichotomy j k with hlt | heq | hgt
  · have hgap := recordEnd_add_two_le hmin hmax hlt (Nat.le_of_lt_succ k.isLt)
    omega
  · exact heq
  · have hgap := recordEnd_add_two_le hmin hmax hgt (Nat.le_of_lt_succ j.isLt)
    omega

end

/-! ### The payload (R214) -/

section
variable {off : Nat} {s : State}

/-- A byte that no slot but `k` touches is the image's byte, patched by slot `k`. -/
theorem patchedByte_eq_patchSlot (k : Fin 4) (h : ∀ j : Fin 4, j ≠ k → ¬slotTouches s.cfg j s.host.uv[j] off) :
    patchedByte off s = patchSlot s.cfg k s.host.uv[k] off (memRead .img off s) := by
  have skip : ∀ (j : Fin 4) (b : Byte), j ≠ k → patchSlot s.cfg j s.host.uv[j] off b = b :=
    fun j b hj => patchSlot_of_not_touched _ _ _ _ b (h j hj)
  unfold patchedByte
  match k, skip with
  | 0, skip => exact (skip 3 _ (by decide)).trans ((skip 2 _ (by decide)).trans (skip 1 _ (by decide)))
  | 1, skip =>
    exact (skip 3 _ (by decide)).trans ((skip 2 _ (by decide)).trans (congrArg _ (skip 0 _ (by decide))))
  | 2, skip =>
    exact (skip 3 _ (by decide)).trans (congrArg _ ((skip 1 _ (by decide)).trans (skip 0 _ (by decide))))
  | 3, skip =>
    exact congrArg _ ((skip 2 _ (by decide)).trans ((skip 1 _ (by decide)).trans (skip 0 _ (by decide))))

/-- The byte a slot touches is the image's byte, patched by that slot alone. -/
theorem patchedByte_of_touched (hmin : 2 ≤ s.cfg.uvRecordSize) (hmax : s.cfg.uvRecordSize ≤ 256) (k : Fin 4)
    (hk : slotTouches s.cfg k s.host.uv[k] off) :
    patchedByte off s = patchSlot s.cfg k s.host.uv[k] off (memRead .img off s) :=
  patchedByte_eq_patchSlot k fun _ hne hj => hne (slotTouches_unique hmin hmax hj hk)

/-- A byte that no slot touches is the image's. -/
theorem patchedByte_of_not_touched (h : ∀ k : Fin 4, ¬slotTouches s.cfg k s.host.uv[k] off) :
    patchedByte off s = memRead .img off s :=
  (patchedByte_eq_patchSlot 0 fun j _ => h j).trans (patchSlot_of_not_touched _ _ _ _ _ (h 0))

/-- The payload does not depend on the write in progress. -/
@[simp] theorem patchedByte_wr (w : WriteRegs) : patchedByte off { s with wr := w } = patchedByte off s := rfl

end

/-! ### A step of a state that holds a write (R147) -/

section
variable (src : Nat → State → Byte) (n : Nat) (err : ErrKind) (next : State → State) (s : State)

/-- With room in `txq` and bytes left, the next byte is pushed and the state stays. -/
theorem sendThen_push (hsrc : ∀ k w, src k { s with wr := w } = src k s) (h : canPush n s) :
    sendThen src n err next s = { s with
      fifo.txq := s.fifo.txq ++ [src (writeInStep s).idx.toNat s]
      wr := { writeInStep s with idx := (writeInStep s).idx + 1, stall := s.cfg.writeStall } } := by
  simp only [sendThen, logicalWrite_push src n s hsrc h]

/-- With the last byte off the line, the engine goes on. -/
theorem sendThen_done (h : allStarted n s) (hline : s.tx.busy = false) :
    sendThen src n err next s = next { s with wr := { writeInStep s with act := false } } := by
  simp only [sendThen, logicalWrite_done src n s h hline]

/-- With nothing to push, the state waits for the character on the line. -/
theorem sendThen_busy (h : ¬canPush n s) (hline : s.tx.busy = true) :
    sendThen src n err next s = { s with wr := writeInStep s } := by
  simp only [sendThen, logicalWrite_busy src n s h hline]

variable (h : ¬canPush n s) (hleft : ¬allStarted n s) (hline : s.tx.busy = false)
include h hleft hline

/-- With the line idle, nothing to push and bytes left, the stall count runs. -/
theorem sendThen_stalled (hstall : (writeInStep s).stall ≠ 0) :
    sendThen src n err next s = { s with
      wr := { writeInStep s with
        stall := if tick s then (writeInStep s).stall - 1 else (writeInStep s).stall } } := by
  simp only [sendThen, logicalWrite_stall src n s h hleft hline]
  rw [if_neg hstall]

/-- With the stall count used up, the bytes still queued are discarded and the write's error is raised. -/
theorem sendThen_failed (hstall : (writeInStep s).stall = 0) :
    sendThen src n err next s =
      raiseError err { s with fifo.txq := [], wr := { writeInStep s with act := false } } := by
  simp only [sendThen, logicalWrite_stall src n s h hleft hline]
  rw [if_pos hstall]

end

/-! ### The step of each state (R217 to R224) -/

/-- A write in progress works on its own registers. -/
theorem writeInStep_of_act (s : State) (h : s.wr.act = true) : writeInStep s = s.wr := if_pos h

section
variable (s : State)

/-- The host's load ends by completing the command (R220). -/
theorem ldFinish_of_cmd (h : s.engine.ctx = .cmd) : ldFinish s = complete { s with status.pluginValid := true } :=
  if_pos h

/-- Recovery's load goes on to run the plugin again (R220, R227). -/
theorem ldFinish_of_recovery (h : s.engine.ctx = .recovery) :
    ldFinish s = gotoEng .rnClear { s with status.pluginValid := true } :=
  if_neg (by rw [h]; decide)

/-- The host's run ends by completing the command (R224). -/
theorem rnDone_of_cmd (h : s.engine.ctx = .cmd) : rnDone s = complete s := if_pos h

/-- LOAD_PLUGIN at dispatch (R217). -/
theorem exec_loadPlugin_of_decode (h : s.engine.eng = .decode) :
    exec .loadPlugin s = .next (gotoEng .ldHdr s) := by
  simp only [exec, execLoadPlugin, h]

/-- RUN_PLUGIN at dispatch (R222). -/
theorem exec_runPlugin_of_decode (h : s.engine.eng = .decode) :
    exec .runPlugin s = .next (gotoEng .rnClear s) := by
  simp only [exec, execRunPlugin, h]

/-- RUN_PLUGIN sending its header (R224). -/
theorem exec_runPlugin_of_rnHdr (h : s.engine.eng = .rnHdr) : exec .runPlugin s = .next (rnHdr s) := by
  simp only [exec, execRunPlugin, h]

/-- The payload is sent alike by LOAD_PLUGIN and in recovery (R219, R227). -/
theorem exec_of_ldPay (h : s.engine.eng = .ldPay) :
    ∀ i ∈ [Instr.loadPlugin, .readPacket], exec i s = .next (ldPay s) := by
  refine List.forall_mem_cons.mpr ⟨?_, List.forall_mem_singleton.mpr ?_⟩
  · simp only [exec, execLoadPlugin, h]
  · simp only [exec, execReadPacket, h]

/-- `LD_FINISH` is one step, of LOAD_PLUGIN and in recovery (R220, R227). -/
theorem exec_of_ldFinish (h : s.engine.eng = .ldFinish) :
    ∀ i ∈ [Instr.loadPlugin, .readPacket], exec i s = .next (ldFinish s) := by
  refine List.forall_mem_cons.mpr ⟨?_, List.forall_mem_singleton.mpr ?_⟩
  · simp only [exec, execLoadPlugin, h]
  · simp only [exec, execReadPacket, h]

/-- `RN_CLEAR` is one step, of RUN_PLUGIN and in recovery (R223, R227). -/
theorem exec_of_rnClear (h : s.engine.eng = .rnClear) :
    ∀ i ∈ [Instr.runPlugin, .readPacket], exec i s = .next (rnClear s) := by
  refine List.forall_mem_cons.mpr ⟨?_, List.forall_mem_singleton.mpr ?_⟩
  · simp only [exec, execRunPlugin, h]
  · simp only [exec, execReadPacket, h]

end

/-! ### The statements -/

/-- Settles O37: the records are disjoint, so a byte is patched by the one slot that touches it, if any. -/
theorem patchedPayload : Obligations.PatchedPayload := by
  intro s hmin hmax
  refine ⟨fun k hen => ?_, fun k hen hpolicy => ?_, fun off _ hother => ?_⟩
  · exact (patchedByte_of_touched hmin hmax k ⟨hen, .inl rfl⟩).trans (patchSlot_value _ _ _ _ hen)
  · exact (patchedByte_of_touched hmin hmax k ⟨hen, .inr ⟨rfl, hpolicy⟩⟩).trans
      (patchSlot_flag _ _ _ _ hen hpolicy (two_le_recordEnd hmax k))
  · refine patchedByte_of_not_touched fun k => ?_
    rintro ⟨hen, hvalue | ⟨hflag, hpolicy⟩⟩
    · exact (hother k hen).1 hvalue
    · exact (hother k hen).2 hpolicy hflag

/-- Settles O38: the payload is the write of `patchedByte`, case by case, and the end is chosen by the context. -/
theorem loadPluginStates : Obligations.LoadPluginStates := by
  intro s
  refine ⟨exec_loadPlugin_of_decode s, fun hpay i hi => ?_, fun hfinish i hi => ?_⟩
  · rw [exec_of_ldPay s hpay i hi]
    refine ⟨fun hpush => ?_, fun hall hline => ?_, fun hpush hline => ?_, fun hpush hleft hline =>
      ⟨fun hstall => ?_, fun hstall => ?_⟩⟩
    · exact congrArg _ (sendThen_push _ _ _ _ s (fun _ w => patchedByte_wr w) hpush)
    · exact congrArg _ (sendThen_done _ _ _ _ s hall hline)
    · exact congrArg _ (sendThen_busy _ _ _ _ s hpush hline)
    · exact congrArg _ (sendThen_stalled _ _ _ _ s hpush hleft hline hstall)
    · exact congrArg _ (sendThen_failed _ _ _ _ s hpush hleft hline hstall)
  · rw [exec_of_ldFinish s hfinish i hi]
    exact ⟨fun hcmd => congrArg _ (ldFinish_of_cmd s hcmd), fun hrec => congrArg _ (ldFinish_of_recovery s hrec)⟩

/-- Settles O39: each clause is the step of its state; the end is the run header's write, done. -/
theorem runPluginStates : Obligations.RunPluginStates := by
  intro s
  refine ⟨exec_runPlugin_of_decode s, exec_of_rnClear s, fun hhdr hcmd hact hidx hqueue hline => ?_⟩
  have hown := writeInStep_of_act s hact
  have hall : allStarted 5 s := by
    refine ⟨?_, hqueue⟩
    rw [hown, hidx]
    rfl
  have hdone : rnHdr s = rnDone { s with wr := { s.wr with act := false } } := by
    rw [← hown]
    exact sendThen_done _ _ _ _ s hall hline
  rw [exec_runPlugin_of_rnHdr s hhdr, hdone]
  exact congrArg _ (rnDone_of_cmd _ hcmd)

end Sys2Proof.Machine

/-! PROOFS. The packet framer (44_packet_engine.md): the headers in numbers, the step of a state that reads one byte,
the steps of the framer and recovery states of READ_PACKET, and the statements they settle. -/

namespace Sys2Proof.Machine

/-! ### The fields of a header (R107, R111) -/

/-- Two bytes, most significant first, as a number (R107). -/
theorem sizeField_toNat (hi lo : Byte) : (sizeField hi lo).toNat = 256 * hi.toNat + lo.toNat := by
  have hlo : lo.toNat < 2 ^ 8 := lo.isLt
  have hshift : hi.toNat * 2 ^ 8 = 2 ^ 8 * hi.toNat := Nat.mul_comm ..
  rw [sizeField, BitVec.toNat_append, Nat.shiftLeft_eq, hshift, ← Nat.two_pow_add_eq_or_of_lt hlo]

/-- The payload's size in bytes (R107). -/
theorem packetSize_eq (blocks : BitVec 16) : packetSize blocks = BitVec.ofNat 24 (256 * blocks.toNat) := by
  have hblocks : blocks.toNat < 65536 := blocks.isLt
  apply BitVec.eq_of_toNat_eq
  rw [packetSize, BitVec.toNat_append, Nat.shiftLeft_eq, BitVec.toNat_ofNat, BitVec.toNat_ofNat, Nat.zero_mod,
    Nat.or_zero]
  omega

/-- A quarter of a field, truncated (R248, R259). -/
theorem sizeField_div_four (hi lo : Byte) :
    sizeField hi lo / 4 = BitVec.ofNat 16 ((256 * hi.toNat + lo.toNat) / 4) := by
  have hfield : (sizeField hi lo).toNat < 65536 := (sizeField hi lo).isLt
  rw [sizeField_toNat] at hfield
  apply BitVec.eq_of_toNat_eq
  have hfour : (4 : BitVec 16).toNat = 4 := rfl
  rw [BitVec.toNat_udiv, sizeField_toNat, hfour, BitVec.toNat_ofNat]
  omega

/-- The registers after a header, with its size in numbers. -/
theorem headerRegs_eq (hi lo t : Byte) (s : State) :
    headerRegs hi lo t s = { s with work := { s.work with
      blocks := hi ++ lo, size := BitVec.ofNat 24 (256 * (hi ++ lo : BitVec 16).toNat), ftype := t } } := by
  rw [headerRegs, packetSize_eq]
  rfl

/-- A RESET packet's threshold is a quarter of its size field (R248). -/
theorem resetHeader_headerRegs (hi lo t : Byte) (s : State) :
    resetHeader (headerRegs hi lo t s) = gotoFs .endState { headerRegs hi lo t s with
      session.rbyte := BitVec.ofNat 16 ((256 * hi.toNat + lo.toNat) / 4) } := by
  rw [← sizeField_div_four]
  rfl

/-- An announcement's threshold is a quarter of its value (R259). -/
theorem announced_eq (hi lo : Byte) (s : State) :
    announced hi lo s = gotoFs .readData { s with
      session.rbyte := BitVec.ofNat 16 ((256 * hi.toNat + lo.toNat) / 4) } := by
  rw [← sizeField_div_four]
  rfl

/-- A type byte of 5 or above names no packet (R112). -/
theorem pktKind_eq_none (t : Byte) (h : 5 ≤ t.toNat) : pktKind t = none := by
  unfold pktKind
  generalize t.toNat = n at h
  split
  case h_6 => rfl
  all_goals exact absurd h (by decide)

/-- `ReadFormat` refuses a type byte of 5 or above (R247). -/
theorem dispatchType_of_undefined (t : Byte) (s : State) (h : 5 ≤ t.toNat) :
    dispatchType t s = raiseError .badType { s with work.ftype := t } := by
  unfold dispatchType
  rw [pktKind_eq_none t h]

/-! ### A step of a state that reads one byte (R145, R243) -/

section
variable (got : Byte → State → State) (s : State)

/-- A read that starts in this step, or has taken nothing yet, has no byte. -/
theorem gotInStep_eq_zero (hfresh : s.rd.act = true → s.rd.got = 0) : gotInStep s = 0 := by
  unfold gotInStep
  split
  next hact => exact hfresh hact
  next => rfl

variable (hfresh : s.rd.act = true → s.rd.got = 0)
include hfresh

/-- A waiting byte is taken, the read ends, and the state's action follows. -/
theorem readOneByte_byte (b : Byte) (q : List Byte) (hq : s.fifo.rxq = b :: q) :
    readOneByte got s = got b { s with
      fifo.rxq := q, rd := { act := false, got := 1, budget := budgetInStep s } } := by
  have hgot := gotInStep_eq_zero s hfresh
  have hread := logicalRead_byte_done noStore 1 s b q s.mem hq (by rw [hgot]; decide) (by decide)
    (fun _ _ => rfl) (.inl (by rw [hgot]; rfl))
  rw [hgot] at hread
  simp only [readOneByte, hread]
  rfl

variable (hq : s.fifo.rxq = [])
include hq

/-- With no byte waiting and the budget used up, DataReadError is raised. -/
theorem readOneByte_short (hbudget : budgetInStep s = 0) :
    readOneByte got s = raiseError .dataRead { s with rd := { act := false, got := 0, budget := 0 } } := by
  have hread := logicalRead_empty_done noStore 1 s hq (.inr hbudget)
  rw [gotInStep_eq_zero s hfresh, hbudget] at hread
  simp only [readOneByte, hread]

/-- With no byte waiting and budget left, the state stays, and a tick is counted. -/
theorem readOneByte_waits (hbudget : budgetInStep s ≠ 0) :
    readOneByte got s = { s with rd := {
      act := true, got := 0, budget := if tick s then budgetInStep s - 1 else budgetInStep s } } := by
  have hgot := gotInStep_eq_zero s hfresh
  have hread := logicalRead_empty_pending noStore 1 s hq (by rw [hgot]; decide) hbudget
  rw [hgot] at hread
  simp only [readOneByte, hread]

end

/-! ### The step of each state of READ_PACKET (R240 to R260) -/

section
variable (s : State)

/-- READ_PACKET at dispatch (R241). -/
theorem exec_readPacket_of_decode (h : s.engine.eng = .decode) :
    exec .readPacket s = .next (readPacketDecode s) := by
  simp only [exec, execReadPacket, h]

/-- In `PK`, READ_PACKET runs the framer (R240). -/
theorem exec_readPacket_of_pk (h : s.engine.eng = .pk) : exec .readPacket s = framerStep s := by
  simp only [exec, execReadPacket, h]

/-- The five framer states that hold a read of one byte differ in what follows the byte. -/
theorem framerStep_of_oneByteState (h : s.engine.fs ∈
      [Framer.readSizeHigh, .readSizeLow, .readFormat, .readRebootByteHigh, .readRebootByteLow]) :
    ∃ got, framerStep s = .next (readOneByte got s) := by
  simp only [List.mem_cons, List.not_mem_nil, or_false] at h
  rcases h with hfs | hfs | hfs | hfs | hfs <;> exact ⟨_, by rw [framerStep, hfs]; rfl⟩

/-- A chunk that reaches the threshold starts recovery (R254). -/
theorem fsDoReset_of_reached (h : s.session.rbyte ≤ s.session.rcount + 1) :
    fsDoReset s = { s with
      session.rcount := s.session.rcount + 1, latched.rmode := 0
      engine := { eng := .rsMode, ctx := .recovery, fs := s.engine.fs } } :=
  if_pos h

/-- A chunk below the threshold is counted, and the payload goes on (R254). -/
theorem fsDoReset_of_below (h : s.session.rcount + 1 < s.session.rbyte) :
    fsDoReset s = { s with session.rcount := s.session.rcount + 1, engine.fs := .readData } :=
  if_neg (BitVec.not_le.mpr h)

/-- `REC_CHECK` in READ_PACKET (R256). -/
theorem exec_readPacket_of_recCheck (h : s.engine.eng = .recCheck) :
    exec .readPacket s = .next (recCheck s) := by
  simp only [exec, execReadPacket, h]

/-- With an image loaded, recovery reloads it (R256). -/
theorem recCheck_of_loaded (h : s.status.pluginValid = true) : recCheck s = gotoEng .ldHdr s := if_pos h

/-- With no image there is nothing to reload (R256). -/
theorem recCheck_of_not_loaded (h : s.status.pluginValid = false) : recCheck s = raiseError .pluginOpen s :=
  if_neg (by rw [h]; decide)

/-- `REC_WAIT` in READ_PACKET (R257). -/
theorem exec_readPacket_of_recWait (h : s.engine.eng = .recWait) : exec .readPacket s = .next (recWait s) := by
  simp only [exec, execReadPacket, h]

end

/-! ### The statements -/

/-- Settles O42: each clause is the header's action, its quarter taken in numbers. -/
theorem headersWithoutPayload : Obligations.HeadersWithoutPayload := by
  intro s hi lo
  refine ⟨?_, ?_, ?_⟩
  · have heod : exec (.pktEod hi lo) s = .next (eodHeader (headerRegs hi lo 0 s)) := rfl
    rw [heod, headerRegs_eq]
    rfl
  · have hreset : exec (.pktReset hi lo) s = .next (resetHeader (headerRegs hi lo 4 s)) := rfl
    rw [hreset, resetHeader_headerRegs, headerRegs_eq]
    rfl
  · exact congrArg _ (announced_eq hi lo s)

/-- Settles O43: the type byte is taken by the one-byte read, and its dispatch raises the error. -/
theorem undefinedTypesRefused : Obligations.UndefinedTypesRefused := by
  intro s t q hpk hfs hfresh hq ht
  have hstep : framerStep s = .next (readOneByte dispatchType s) := by
    rw [framerStep, hfs]
    rfl
  rw [exec_readPacket_of_pk s hpk, hstep, readOneByte_byte dispatchType s hfresh t q hq,
    dispatchType_of_undefined t _ ht]
  rfl

/-- Settles O45: what follows the byte is each state's own; with no byte waiting the five states are one. -/
theorem oneByteReads : Obligations.OneByteReads := by
  intro s hpk hfresh
  rw [exec_readPacket_of_pk s hpk]
  refine ⟨fun b q hq => ⟨fun hfs => ?_, fun hfs => ?_, fun hfs => ?_⟩, fun hfs hq => ?_⟩
  · rw [framerStep, hfs]
    exact congrArg _ (readOneByte_byte _ s hfresh b q hq)
  · rw [framerStep, hfs, ← sizeField_toNat, ← packetSize_eq]
    exact congrArg _ (readOneByte_byte _ s hfresh b q hq)
  · rw [framerStep, hfs]
    exact congrArg _ (readOneByte_byte _ s hfresh b q hq)
  · obtain ⟨got, hstep⟩ := framerStep_of_oneByteState s hfs
    rw [hstep]
    exact ⟨fun hbudget => congrArg _ (readOneByte_short got s hfresh hq hbudget),
      fun hbudget => congrArg _ (readOneByte_waits got s hfresh hq hbudget)⟩

/-- Settles O48: `DoReset` by the threshold, `REC_CHECK` by the image, `REC_WAIT` by the delay's count. -/
theorem recoveryStates : Obligations.RecoveryStates := by
  intro s
  have hdoReset (hpk : s.engine.eng = .pk) (hfs : s.engine.fs = .doReset) :
      exec .readPacket s = .next (fsDoReset s) := by
    rw [exec_readPacket_of_pk s hpk, framerStep, hfs]
  refine ⟨fun hpk hfs hreached => ?_, fun hpk hfs hbelow => ?_, fun hcheck hloaded => ?_, fun hcheck hnone => ?_,
    fun hwait => ⟨fun hdone => ?_, fun hleft htick => ?_, fun hleft htick => ?_⟩⟩
  · rw [hdoReset hpk hfs, fsDoReset_of_reached s hreached, hfs]
  · rw [hdoReset hpk hfs, fsDoReset_of_below s hbelow]
  · rw [exec_readPacket_of_recCheck s hcheck, recCheck_of_loaded s hloaded]
    rfl
  · rw [exec_readPacket_of_recCheck s hcheck, recCheck_of_not_loaded s hnone]
    rfl
  · rw [exec_readPacket_of_recWait s hwait, recWait, waitThen_step, if_pos hdone]
    rfl
  · rw [exec_readPacket_of_recWait s hwait, recWait, waitThen_step, if_neg hleft, if_pos htick]
  · rw [exec_readPacket_of_recWait s hwait, recWait, waitThen_step, if_neg hleft,
      if_neg (by rw [htick]; decide)]

/-- Settles O44: each clause is the step of its state. -/
theorem readPacketStartAndEnd : Obligations.ReadPacketStartAndEnd := by
  intro s
  refine ⟨exec_readPacket_of_decode s, fun hpk hfs => ?_, fun hpk hfs => ?_⟩
  · rw [exec_readPacket_of_pk s hpk, framerStep, hfs]
    rfl
  · rw [exec_readPacket_of_pk s hpk, framerStep, hfs]
    rfl

end Sys2Proof.Machine

/-! PROOFS. The encodings (30_encoding.md): the fields of a command word, what a decoded word says of its fields, the
two round trips, and the words the decoder refuses. -/

namespace Sys2Proof

open Machine

/-! ### The fields of a command word (R91) -/

section
variable (len : BitVec 16) (arg opc : Byte) (w : Word)

@[simp] theorem cmdOpc_cmdWord : cmdOpc (cmdWord len arg opc) = opc :=
  BitVec.extractLsb'_append_eq_right

@[simp] theorem cmdArg_cmdWord : cmdArg (cmdWord len arg opc) = arg := by
  have habove := extractLsb'_append_above (len ++ arg) opc 0 8
  exact habove.trans BitVec.extractLsb'_append_eq_right

@[simp] theorem cmdLen_cmdWord : cmdLen (cmdWord len arg opc) = len := by
  have habove := extractLsb'_append_above (len ++ arg) opc 8 16
  exact habove.trans BitVec.extractLsb'_append_eq_left

/-- A command word is its three fields. -/
theorem cmdWord_fields : cmdWord (cmdLen w) (cmdArg w) (cmdOpc w) = w := by
  refine BitVec.eq_of_getLsbD_eq fun k hk => ?_
  simp only [cmdWord, cmdLen, cmdArg, cmdOpc, BitVec.getLsbD_append, BitVec.getLsbD_extractLsb']
  split_ifs with hopc harg
  · simp [hopc]
  · simp only [harg, decide_true, Bool.true_and]
    congr 1
    omega
  · have hlen : k - 8 - 8 < 16 := by omega
    simp only [hlen, decide_true, Bool.true_and]
    congr 1
    omega

end

/-! ### The reserved fields (R93, R94) -/

/-- A command without operands is accepted exactly when `ARG` and `LEN` are 0. -/
theorem decodePlain_eq_ok {w : Word} {i j : Instr} :
    decodePlain w i = .ok j ↔ cmdArg w = 0 ∧ cmdLen w = 0 ∧ i = j := by
  unfold decodePlain
  split_ifs <;> simp_all

/-- A command with a length operand is accepted exactly when `ARG` is 0. -/
theorem decodeNoArg_eq_ok {w : Word} {i j : Instr} : decodeNoArg w i = .ok j ↔ cmdArg w = 0 ∧ i = j := by
  unfold decodeNoArg
  split_ifs <;> simp_all

/-- RESET_UNIT is accepted exactly when `ARG[7:3]` and `LEN` are 0, with the mode bits of `ARG`. -/
theorem decodeReset_eq_ok {w : Word} {j : Instr} :
    decodeReset w = .ok j ↔ (cmdArg w).extractLsb' 3 5 = 0 ∧ cmdLen w = 0 ∧
      .resetUnit ((cmdArg w).getLsbD 0) ((cmdArg w).getLsbD 1) ((cmdArg w).getLsbD 2) = j := by
  unfold decodeReset
  split_ifs <;> simp_all

/-- `ARG` of RESET_UNIT holds the mode bits below five zeros. -/
theorem resetArg_bits : ∀ pm nr ap : Bool, (resetArg pm nr ap).extractLsb' 3 5 = 0 ∧
    (resetArg pm nr ap).getLsbD 0 = pm ∧ (resetArg pm nr ap).getLsbD 1 = nr ∧ (resetArg pm nr ap).getLsbD 2 = ap := by
  decide

/-- An `ARG` whose upper five bits are 0 is its mode bits. -/
theorem resetArg_of_reserved : ∀ arg : Byte, arg.extractLsb' 3 5 = 0 →
    resetArg (arg.getLsbD 0) (arg.getLsbD 1) (arg.getLsbD 2) = arg := by
  decide

/-! ### What a decoded word says of its fields (R92, R93, R96) -/

/-- The rules of R93 and R96 on the fields of a word: `decodeCommand_ok` ties them to the decoder. -/
structure LegalFields (w : Word) : Prop where
  opc : (cmdOpc w).toNat ≤ 9
  arg : (cmdOpc w).toNat ≠ 2 → cmdArg w = 0
  resetArg : (cmdOpc w).toNat = 2 → (cmdArg w).extractLsb' 3 5 = 0
  len : (cmdOpc w).toNat ∉ [6, 7, 8] → cmdLen w = 0

section
variable {w : Word} {i j : Instr} {opc : Byte} (hopc : (cmdOpc w).toNat = opc.toNat)
include hopc

/-- A word is put together from the values of its fields. -/
theorem cmdWord_of_fields {len : BitVec 16} {arg : Byte} (hlen : cmdLen w = len) (harg : cmdArg w = arg) :
    cmdWord len arg opc = w := by
  rw [← hlen, ← harg, ← BitVec.eq_of_toNat_eq hopc, cmdWord_fields]

/-- The word of a command without operands. -/
theorem decodePlain_ok (h : decodePlain w j = .ok i) (hmax : opc.toNat ≤ 9) (hreset : opc.toNat ≠ 2)
    (hcode : encode j = .cmd (cmdWord 0 0 opc)) : LegalFields w ∧ encode i = .cmd w := by
  obtain ⟨harg, hlen, rfl⟩ := decodePlain_eq_ok.mp h
  rw [hcode, cmdWord_of_fields hopc hlen harg]
  exact ⟨⟨by omega, fun _ => harg, fun h => absurd (hopc.symm.trans h) hreset, fun _ => hlen⟩, rfl⟩

/-- The word of a command with a length operand. -/
theorem decodeNoArg_ok (h : decodeNoArg w j = .ok i) (hlen : opc.toNat ∈ [6, 7, 8])
    (hcode : encode j = .cmd (cmdWord (cmdLen w) 0 opc)) : LegalFields w ∧ encode i = .cmd w := by
  obtain ⟨harg, rfl⟩ := decodeNoArg_eq_ok.mp h
  rw [hcode, cmdWord_of_fields hopc rfl harg]
  rw [← hopc] at hlen
  refine ⟨⟨?_, fun _ => harg, fun h => absurd hlen (by rw [h]; decide), fun h => absurd hlen h⟩, rfl⟩
  simp only [List.mem_cons, List.not_mem_nil, or_false] at hlen
  omega

end

/-- The word of RESET_UNIT. -/
theorem decodeReset_ok {w : Word} {i : Instr} (hopc : (cmdOpc w).toNat = 2) (h : decodeReset w = .ok i) :
    LegalFields w ∧ encode i = .cmd w := by
  obtain ⟨harg, hlen, rfl⟩ := decodeReset_eq_ok.mp h
  rw [encode, resetArg_of_reserved _ harg, cmdWord_of_fields (opc := 0x02) hopc hlen rfl]
  exact ⟨⟨by omega, fun h => absurd hopc h, fun _ => harg, fun _ => hlen⟩, rfl⟩

/-- A word that decodes has legal fields, and is the word of its instruction. -/
theorem decodeCommand_ok {w : Word} {i : Instr} (h : decodeCommand w = .ok i) :
    LegalFields w ∧ encode i = .cmd w := by
  unfold decodeCommand at h
  split at h
  case h_1 hopc => exact decodePlain_ok (opc := 0x00) hopc h (by decide) (by decide) rfl
  case h_2 hopc => exact decodePlain_ok (opc := 0x01) hopc h (by decide) (by decide) rfl
  case h_3 hopc => exact decodeReset_ok hopc h
  case h_4 hopc => exact decodePlain_ok (opc := 0x03) hopc h (by decide) (by decide) rfl
  case h_5 hopc => exact decodePlain_ok (opc := 0x04) hopc h (by decide) (by decide) rfl
  case h_6 hopc => exact decodePlain_ok (opc := 0x05) hopc h (by decide) (by decide) rfl
  case h_7 hopc => exact decodeNoArg_ok (opc := 0x06) hopc h (by decide) rfl
  case h_8 hopc => exact decodeNoArg_ok (opc := 0x07) hopc h (by decide) rfl
  case h_9 hopc => exact decodeNoArg_ok (opc := 0x08) hopc h (by decide) rfl
  case h_10 hopc => exact decodePlain_ok (opc := 0x09) hopc h (by decide) (by decide) rfl
  case h_11 => cases h

/-- A word with an illegal field does not decode. -/
theorem decodeCommand_error_of_illegal {w : Word} (h : ¬LegalFields w) : ∃ e, decodeCommand w = .error e := by
  cases hd : decodeCommand w with
  | error e => exact ⟨e, rfl⟩
  | ok i => exact absurd (decodeCommand_ok hd).1 h

/-- An opcode of 0x0A or above names no command (R96). -/
theorem decodeCommand_badOpcode {w : Word} (h : 0x0A ≤ (cmdOpc w).toNat) :
    decodeCommand w = .error (.badOpcode (cmdOpc w)) := by
  unfold decodeCommand
  generalize (cmdOpc w).toNat = n at h
  split
  case h_11 => rfl
  all_goals exact absurd h (by decide)

/-! ### The wire codes (R101 to R112) -/

/-- A byte sequence the block sends is the code of what it decodes to. -/
theorem encode_of_decodeTx {bytes : List Byte} {i : Instr} (h : decodeTx bytes = .ok i) : encode i = .tx bytes := by
  unfold decodeTx at h
  split_ifs at h with hquery hload hrun
  · cases h
    rw [hquery, encode]
  · cases h
    rw [hload, encode]
  · cases h
    rw [hrun, encode]

/-- A type byte is the number of its kind (R108). -/
theorem pktKind_eq_some {t : Byte} {k : PktKind} (h : pktKind t = some k) :
    t = match k with | .eod => 0 | .prg => 1 | .chr => 2 | .wram => 3 | .reset => 4 := by
  unfold pktKind at h
  split at h
  case h_6 => cases h
  all_goals
    next ht =>
      cases h
      exact BitVec.eq_of_toNat_eq ht

/-- A packet header is the code of what it decodes to. -/
theorem encode_of_decodeHeader {sHi sLo t : Byte} {i : Instr} (h : decodeHeader sHi sLo t = .ok i) :
    encode i = .header sHi sLo t := by
  unfold decodeHeader at h
  split at h
  case h_6 => cases h
  all_goals
    next hkind =>
      cases h
      rw [pktKind_eq_some hkind, encode]

/-! ### The statements -/

/-- Settles O1: each code is decoded by its fields, or by its type byte. -/
theorem decodeOfEncode : Obligations.DecodeOfEncode := by
  intro i
  cases i with
  | nop | flush | loadPlugin | runPlugin | readPacket | imgClear =>
    simp [encode, decode, decodeCommand, decodePlain]
  | getVersion len | read len | write len => simp [encode, decode, decodeCommand, decodeNoArg]
  | resetUnit pm nr ap =>
    obtain ⟨hreserved, hplay, hskip, halt⟩ := resetArg_bits pm nr ap
    have hreset : decode (encode (.resetUnit pm nr ap)) = decodeReset (cmdWord 0 (resetArg pm nr ap) 0x02) := by
      simp [encode, decode, decodeCommand]
    rw [hreset, decodeReset_eq_ok, cmdArg_cmdWord, cmdLen_cmdWord, hplay, hskip, halt]
    exact ⟨hreserved, rfl, rfl⟩
  | versionQuery | loadHdr | runHdr => rfl
  | pktEod | pktPrg | pktChr | pktWram | pktReset | rebootAnnounce => rfl

/-- Settles O2, by the format of the code. -/
theorem encodeOfDecode : Obligations.EncodeOfDecode := by
  intro c i h
  cases c with
  | cmd w => exact (decodeCommand_ok h).2
  | tx bytes => exact encode_of_decodeTx h
  | header sHi sLo t => exact encode_of_decodeHeader h
  | announce aHi aLo =>
    cases h
    rfl

/-- Settles O3: each is the code of its instruction. -/
theorem specWordsDecode : Obligations.SpecWordsDecode :=
  ⟨decodeOfEncode .nop, decodeOfEncode (.resetUnit true true false), decodeOfEncode (.resetUnit false false true),
    decodeOfEncode (.read 16), decodeOfEncode (.getVersion 64), decodeOfEncode (.write 1), decodeOfEncode .imgClear,
    decodeOfEncode .versionQuery, decodeOfEncode .loadHdr, decodeOfEncode .runHdr,
    decodeOfEncode (.pktReset 0x00 0x0B), decodeOfEncode (.rebootAnnounce 0x00 0x0C)⟩

/-- Settles O4: each clause names an illegal field. -/
theorem invalidWordsRefusedByDecoder : Obligations.InvalidWordsRefusedByDecoder :=
  ⟨fun _ => decodeCommand_badOpcode,
    fun _ hopc harg => decodeCommand_error_of_illegal fun hw => harg (hw.arg hopc),
    fun _ hopc harg => decodeCommand_error_of_illegal fun hw => harg (hw.resetArg hopc),
    fun _ hopc hlen => decodeCommand_error_of_illegal fun hw => hlen (hw.len hopc)⟩

end Sys2Proof

/-! PROOFS. What an engine step can do, said once: each primitive's outcomes, then the relation `Move`, one constructor
for each rule of P3, and that every answer of `exec` is a move. -/

namespace Sys2Proof.Machine

/-! ### The outcomes of a read (R145) -/

/-- `m` are the memories of `s`, with at most one byte stored, outside `IMG`. -/
def StoredIn (s : State) (m : Memories) : Prop :=
  m = s.mem ∨ ∃ id a b, id ≠ .img ∧ m = (memWrite id a b s).mem

/-- A destination of a read stores its byte in `PKT_MEM` or `DBUF`, or nowhere. -/
def StoresOutsideImg (dst : Nat → Byte → State → State) : Prop :=
  ∀ k b s, dst k b s = s ∨ ∃ id a, id ≠ .img ∧ dst k b s = memWrite id a b s

theorem noStore_stores : StoresOutsideImg noStore := fun _ _ _ => .inl rfl

theorem dbufDest_stores : StoresOutsideImg dbufDest := fun k _ _ => .inr ⟨.dbuf, k, by decide, rfl⟩

theorem pktDest_stores : StoresOutsideImg pktDest := fun _ _ _ => .inr ⟨.pkt, _, by decide, rfl⟩

/-- The memories after a write are those before and the byte: no register plays a part. -/
theorem memWrite_mem_registers (id : MemId) (a : Nat) (b : Byte) (s : State) (f : Fifos) (r : ReadRegs) :
    (memWrite id a b { s with fifo := f, rd := r }).mem = (memWrite id a b s).mem := by
  unfold memWrite
  split <;> rfl

/-- What a step of a read of `n` bytes may leave in the read registers, `rxq` and the memories. -/
structure ReadLeaves (n : Nat) (s : State) (r : ReadRegs) (q : List Byte) (m : Memories) : Prop where
  queue : q.length ≤ s.fifo.rxq.length
  stored : StoredIn s m
  got : (s.rd.act = true → s.rd.got.toNat < n) → r.got.toNat ≤ n

/-- The state after a step of a read. -/
def afterRead (s : State) (r : ReadRegs) (q : List Byte) (m : Memories) : State :=
  { s with rd := r, fifo.rxq := q, mem := m }

/-- A step of a read takes at most one byte. -/
theorem readTake_leaves {dst : Nat → Byte → State → State} {n : Nat} (s : State) (hdst : StoresOutsideImg dst)
    (hn : n < 65536) :
    ∃ r q m, ReadLeaves n s r q m ∧ (readTake dst n (readStart s)).2 = afterRead s r q m := by
  have hstart (h : s.rd.act = true → s.rd.got.toNat < n) : (gotInStep s).toNat ≤ n := by
    unfold gotInStep
    split
    next hact => exact (h hact).le
    next => exact Nat.zero_le n
  rw [readStart_inStep]
  rcases readTake_cases dst n _ with htake | ⟨b, q, hq, hgot, htake⟩
  · exact ⟨_, s.fifo.rxq, s.mem, ⟨le_rfl, .inl rfl, hstart⟩, by rw [htake]; rfl⟩
  · have hq : s.fifo.rxq = b :: q := hq
    have hgot : (gotInStep s).toNat < n := hgot
    have hnext : (gotInStep s + 1).toNat ≤ n := by rw [got_add_one s n hgot hn]; exact hgot
    have hlen : q.length ≤ s.fifo.rxq.length := by rw [hq]; exact Nat.le_succ _
    rw [htake]
    refine ⟨{ act := true, got := gotInStep s + 1, budget := budgetInStep s }, q, ?_⟩
    rcases hdst (gotInStep s).toNat b { s with
        fifo.rxq := q, rd := { act := true, got := gotInStep s + 1, budget := budgetInStep s } } with h | ⟨id, a, hid, h⟩
    · exact ⟨s.mem, ⟨hlen, .inl rfl, fun _ => hnext⟩, h⟩
    · refine ⟨_, ⟨hlen, .inr ⟨id, a, b, hid, rfl⟩, fun _ => hnext⟩, h.trans ?_⟩
      rw [memWrite_eq, memWrite_mem_registers]
      rfl

/-- A step of a read: on with less than its request, or ended. -/
theorem logicalRead_leaves {dst : Nat → Byte → State → State} {n : Nat} (s : State) (hdst : StoresOutsideImg dst)
    (hn : n < 65536) :
    ∃ r q m, ReadLeaves n s r q m ∧ (logicalRead dst n s).state = afterRead s r q m ∧
      ((logicalRead dst n s).result = .pending ∧ r.got.toNat ≠ n ∨
        (logicalRead dst n s).result = .done r.got.toNat ∧ r.act = false) := by
  obtain ⟨r, q, m, ⟨hqueue, hstored, hgot⟩, htake⟩ := readTake_leaves s hdst hn
  rw [logicalRead_eq, htake]
  rcases readEnd_cases n (afterRead s r q m) with ⟨h, -⟩ | ⟨hne, -, ⟨h, -⟩ | ⟨h, -⟩⟩
  · exact ⟨{ r with act := false }, q, m, ⟨hqueue, hstored, hgot⟩, by rw [h]; rfl, .inr ⟨by rw [h]; rfl, rfl⟩⟩
  · exact ⟨{ r with budget := r.budget - 1 }, q, m, ⟨hqueue, hstored, hgot⟩, by rw [h]; rfl,
      .inl ⟨by rw [h], hne⟩⟩
  · exact ⟨r, q, m, ⟨hqueue, hstored, hgot⟩, by rw [h], .inl ⟨by rw [h], hne⟩⟩

/-! ### The outcomes of a write (R147) -/

/-- `q` is `txq` of `s`, with at most one byte pushed, for which there was room. -/
def PushedIn (s : State) (q : List Byte) : Prop :=
  q = s.fifo.txq ∨ s.fifo.txq.length < s.cfg.txFifoDepth ∧ ∃ b, q = s.fifo.txq ++ [b]

/-- The state after a step of a write. -/
def afterWrite (s : State) (w : WriteRegs) (q : List Byte) : State := { s with wr := w, fifo.txq := q }

/-- A write in progress, or one that starts in this step, is active. -/
@[simp] theorem writeInStep_act (s : State) : (writeInStep s).act = true := by
  unfold writeInStep
  split
  · assumption
  · rfl

/-- A step of a write: on, done with `txq` empty, or failed with `txq` emptied. -/
theorem logicalWrite_leaves (src : Nat → State → Byte) (n : Nat) (s : State)
    (hsrc : ∀ k w, src k { s with wr := w } = src k s) :
    ∃ w q, (logicalWrite src n s).state = afterWrite s w q ∧
      ((logicalWrite src n s).result = .pending ∧ w.act = true ∧ PushedIn s q ∨
        (logicalWrite src n s).result = .done ∧ w.act = false ∧ q = [] ∨
        (logicalWrite src n s).result = .failed ∧ w.act = false ∧ q = []) := by
  by_cases hpush : canPush n s
  · rw [logicalWrite_push src n s hsrc hpush]
    exact ⟨_, _, rfl, .inl ⟨rfl, writeInStep_act s, .inr ⟨hpush.2, _, rfl⟩⟩⟩
  · by_cases hline : s.tx.busy = true
    · rw [logicalWrite_busy src n s hpush hline]
      exact ⟨_, s.fifo.txq, rfl, .inl ⟨rfl, writeInStep_act s, .inl rfl⟩⟩
    · have hline : s.tx.busy = false := by simpa using hline
      by_cases hall : allStarted n s
      · rw [logicalWrite_done src n s hall hline]
        exact ⟨{ writeInStep s with act := false }, s.fifo.txq, rfl, .inr (.inl ⟨rfl, rfl, hall.2⟩)⟩
      · rw [logicalWrite_stall src n s hpush hall hline]
        split
        · exact ⟨_, _, rfl, .inr (.inr ⟨rfl, rfl, rfl⟩)⟩
        · exact ⟨_, s.fifo.txq, rfl, .inl ⟨rfl, writeInStep_act s, .inl rfl⟩⟩

/-- A state that holds a write: it stays, goes on, or aborts. -/
theorem sendThen_leaves (src : Nat → State → Byte) (n : Nat) (err : ErrKind) (next : State → State) (s : State)
    (hsrc : ∀ k w, src k { s with wr := w } = src k s) :
    ∃ w q, (w.act = true ∧ PushedIn s q ∧ sendThen src n err next s = afterWrite s w q) ∨
      (w.act = false ∧ sendThen src n err next s = next (afterWrite s w [])) ∨
      (w.act = false ∧ sendThen src n err next s = raiseError err (afterWrite s w [])) := by
  obtain ⟨w, q, hstate, ⟨hresult, hact, hq⟩ | ⟨hresult, hact, rfl⟩ | ⟨hresult, hact, rfl⟩⟩ :=
    logicalWrite_leaves src n s hsrc
  · exact ⟨w, q, .inl ⟨hact, hq, by rw [sendThen, hresult, hstate]⟩⟩
  · exact ⟨w, [], .inr (.inl ⟨hact, by rw [sendThen, hresult, hstate]⟩)⟩
  · exact ⟨w, [], .inr (.inr ⟨hact, by rw [sendThen, hresult, hstate]⟩)⟩

end Sys2Proof.Machine

/-! PROOFS. The moves of the engine: one constructor of `Move` for each thing P3 can do, and `exec_move`, that every
answer of `exec` is one of them. The statements about what instructions write, and the invariants, go by its cases. -/

namespace Sys2Proof.Machine

/-! ### Where a move is made -/

/-- The codes of the data channel: `exec` of one is the step of the state that sends or takes it, whatever `eng`
is. -/
def isWireCode : Instr → Bool
  | .versionQuery | .loadHdr | .runHdr | .pktEod _ _ | .pktPrg _ _ | .pktChr _ _ | .pktWram _ _ | .pktReset _ _
  | .rebootAnnounce _ _ => true
  | _ => false

/-- `i` is a code of the channel, or a command in one of the states `es`. -/
def RunsIn (i : Instr) (s : State) (es : List Eng) : Prop := isWireCode i = true ∨ s.engine.eng ∈ es

/-- A command outside its own states runs its dispatch step. -/
def Dispatches (i : Instr) (s : State) : Prop := ∀ c, ownState i c s.engine.eng = false

/-- The framer's read of one byte in `f` has ended, with these registers, queue and memories. -/
def TookByte (f : Framer) (s : State) (r : ReadRegs) (q : List Byte) (m : Memories) : Prop :=
  s.engine.eng = .pk ∧ s.engine.fs = f ∧ ReadLeaves 1 s r q m ∧ r.act = false

/-- The last byte of a code has been taken: by the framer in `f`, or the code itself is run. -/
def TookCode (i : Instr) (f : Framer) (s : State) (r : ReadRegs) (q : List Byte) (m : Memories) : Prop :=
  (isWireCode i = true ∧ r = s.rd ∧ q = s.fifo.rxq ∧ m = s.mem) ∨ TookByte f s r q m

/-! ### The moves -/

/-- What `exec i s` can answer. -/
inductive Move (i : Instr) (s : State) : State → Prop
  /-- R151. -/
  | nop (hi : i = .nop) (hd : Dispatches i s) : Move i s (complete s)
  /-- R152. -/
  | flush (hi : i = .flush) (hd : Dispatches i s) : Move i s (complete (flushFifos s))
  /-- R212. -/
  | imgClear (hi : i = .imgClear) (hd : Dispatches i s) : Move i s (complete (clearImage s))
  /-- R95. -/
  | refused (hd : Dispatches i s) : Move i s (raiseError .invalidParams s)
  /-- R95, R153, R154, R191, R217, R222, R291. -/
  | dispatched (e : Eng) (l : Latched) (f : Fifos) (hd : Dispatches i s) (hown : ownState i .cmd e = true)
      (hi : i ≠ .readPacket) (hf : f = s.fifo ∨ f = { rxq := [], txq := [] }) :
      Move i s (gotoEng e { s with latched := l, fifo := f })
  /-- R241. -/
  | packetDispatched (hi : i = .readPacket) (hd : Dispatches i s) : Move i s (readPacketDecode s)
  /-- R192. -/
  | modeSet (he : s.engine.eng = .rsMode) : Move i s (rsMode s)
  /-- R193. -/
  | asserted (he : s.engine.eng = .rsAssert) : Move i s (rsAssert s)
  /-- R195. -/
  | deasserted (he : s.engine.eng = .rsDeassert) : Move i s (rsDeassert s)
  /-- R197. -/
  | resetEnds (he : s.engine.eng = .rsFinish) (hc : s.engine.ctx = .cmd) : Move i s (complete (flushFifos s))
  /-- R197 in recovery. -/
  | resetRecovers (he : s.engine.eng = .rsFinish) (hc : s.engine.ctx = .recovery) :
      Move i s (gotoEng .recCheck (flushFifos s))
  /-- R148: a delay goes on. -/
  | waits (d : DelayRegs) (he : s.engine.eng ∈ [Eng.rsHold1, .rsHold2, .recWait]) : Move i s { s with dly := d }
  /-- R194, R196. -/
  | held (d : DelayRegs) (e : Eng) (he : (s.engine.eng, e) ∈ [(Eng.rsHold1, Eng.rsDeassert), (.rsHold2, .rsFinish)]) :
      Move i s (gotoEng e { s with dly := d })
  /-- R257. -/
  | resumes (d : DelayRegs) (he : s.engine.eng = .recWait) : Move i s (recDone { s with dly := d })
  /-- R220. -/
  | loadEnds (he : s.engine.eng = .ldFinish) (hc : s.engine.ctx = .cmd) :
      Move i s (complete { s with status.pluginValid := true })
  /-- R220 in recovery. -/
  | loadRecovers (he : s.engine.eng = .ldFinish) (hc : s.engine.ctx = .recovery) :
      Move i s (gotoEng .rnClear { s with status.pluginValid := true })
  /-- R223. -/
  | countersCleared (he : s.engine.eng = .rnClear) : Move i s (rnClear s)
  /-- R256. -/
  | reloads (he : s.engine.eng = .recCheck) : Move i s (gotoEng .ldHdr s)
  /-- R256 with no image. -/
  | reloadFails (he : s.engine.eng = .recCheck) : Move i s (raiseError .pluginOpen s)
  /-- R147: a write goes on. -/
  | sends (w : WriteRegs) (q : List Byte) (he : RunsIn i s [.ldHdr, .ldPay, .rnHdr, .vpSend, .rwWrite])
      (hact : w.act = true) (hq : PushedIn s q) : Move i s (afterWrite s w q)
  /-- R218, R219, R292: the next state. -/
  | sent (w : WriteRegs) (e : Eng) (hact : w.act = false)
      (he : isWireCode i = true ∨ (s.engine.eng, e) ∈ [(Eng.ldHdr, Eng.ldPay), (.ldPay, .ldFinish), (.vpSend, .vpRead)]) :
      Move i s (gotoEng e (afterWrite s w []))
  /-- R224 in recovery. -/
  | runRecovers (w : WriteRegs) (hact : w.act = false) (he : RunsIn i s [.rnHdr]) (hc : s.engine.ctx = .recovery) :
      Move i s (gotoEng .recWait (afterWrite s w []))
  /-- R154, R224: the command's last write. -/
  | sentLast (w : WriteRegs) (x : BitVec 16) (hact : w.act = false) (he : RunsIn i s [.rnHdr, .rwWrite]) :
      Move i s (complete (setXfer x (afterWrite s w [])))
  /-- R154, R218, R219, R224, R292: a stalled write. -/
  | sendFails (w : WriteRegs) (x : BitVec 16) (err : ErrKind) (hact : w.act = false)
      (herr : err ∈ [ErrKind.commandSend, .blockSend, .writeError]) :
      Move i s (raiseError err (setXfer x (afterWrite s w [])))
  /-- R145: a read goes on. -/
  | reads (r : ReadRegs) (q : List Byte) (m : Memories) (he : s.engine.eng ∈ [Eng.rrRead, .vpRead, .pk])
      (hr : ReadLeaves (readRequest s) s r q m) (hgot : r.got.toNat ≠ readRequest s) : Move i s (afterRead s r q m)
  /-- R153, R294. -/
  | readEnds (n : Nat) (r : ReadRegs) (q : List Byte) (m : Memories) (x : BitVec 16)
      (he : s.engine.eng ∈ [Eng.rrRead, .vpRead]) (hr : ReadLeaves n s r q m) (hact : r.act = false) :
      Move i s (complete (setXfer x (afterRead s r q m)))
  /-- R243, R251: DataReadError. -/
  | readFails (n : Nat) (r : ReadRegs) (q : List Byte) (m : Memories) (he : s.engine.eng = .pk)
      (hr : ReadLeaves n s r q m) : Move i s (raiseError .dataRead (afterRead s r q m))
  /-- R242. -/
  | framerStarts (he : s.engine.eng = .pk) (hf : s.engine.fs = .start) : Move i s (fsStart s)
  /-- R243, R258. -/
  | highByte (f g : Framer) (b : Byte) (r : ReadRegs) (q : List Byte) (m : Memories)
      (hfg : (f, g) ∈ [(Framer.readSizeHigh, Framer.readSizeLow), (.readRebootByteHigh, .readRebootByteLow)])
      (hu : TookByte f s r q m) : Move i s (gotoFs g { afterRead s r q m with work.hb := b })
  /-- R244. -/
  | sized (n : BitVec 16) (r : ReadRegs) (q : List Byte) (m : Memories) (hu : TookByte .readSizeLow s r q m) :
      Move i s (gotoFs .readFormat { afterRead s r q m with work.blocks := n, work.size := packetSize n })
  /-- R246: end-of-data, or a payload packet with no block. -/
  | headerEnds (a b t : Byte) (r : ReadRegs) (q : List Byte) (m : Memories)
      (hu : TookCode i .readFormat s r q m) :
      Move i s (gotoFs .endState (headerRegs a b t (afterRead s r q m)))
  /-- R246: OversizeError. -/
  | oversize (a b t : Byte) (r : ReadRegs) (q : List Byte) (m : Memories) (hu : TookCode i .readFormat s r q m) :
      Move i s (raiseError .oversize (headerRegs a b t (afterRead s r q m)))
  /-- R246: the payload follows. -/
  | payload (a b t : Byte) (r : ReadRegs) (q : List Byte) (m : Memories) (hu : TookCode i .readFormat s r q m) :
      Move i s (gotoFs .readData (headerRegs a b t (afterRead s r q m)))
  /-- R248. -/
  | threshold (a b t : Byte) (r : ReadRegs) (q : List Byte) (m : Memories)
      (hu : TookCode i .readFormat s r q m) : Move i s (resetHeader (headerRegs a b t (afterRead s r q m)))
  /-- R247. -/
  | badType (t : Byte) (r : ReadRegs) (q : List Byte) (m : Memories) (hu : TookByte .readFormat s r q m) :
      Move i s (raiseError .badType { afterRead s r q m with work.ftype := t })
  /-- R259. -/
  | announces (a b : Byte) (r : ReadRegs) (q : List Byte) (m : Memories)
      (hu : TookCode i .readRebootByteLow s r q m) : Move i s (announced a b (afterRead s r q m))
  /-- R249. -/
  | payloadEnds (he : s.engine.eng = .pk) (hf : s.engine.fs = .readData) (hact : s.rd.act = false) :
      Move i s (gotoFs .endState s)
  /-- R251 to R253. -/
  | counts (r : ReadRegs) (q : List Byte) (m : Memories) (he : s.engine.eng = .pk) (hf : s.engine.fs = .readData)
      (hr : ReadLeaves (subReadLength s) s r q m) (hact : r.act = false) :
      Move i s (account r.got.toNat (afterRead s r q m))
  /-- R254: recovery starts. -/
  | recovers (he : s.engine.eng = .pk) (hf : s.engine.fs = .doReset) : Move i s { s with
      session.rcount := s.session.rcount + 1, latched.rmode := 0, engine.ctx := .recovery, engine.eng := .rsMode }
  /-- R254: the payload goes on. -/
  | chunkCounted (he : s.engine.eng = .pk) (hf : s.engine.fs = .doReset) :
      Move i s { s with session.rcount := s.session.rcount + 1, engine.fs := .readData }
  /-- R260. -/
  | exposes (hi : i = .readPacket) (he : s.engine.eng = .pk) (hf : s.engine.fs = .endState) : Move i s (fsEnd s)

/-! ### Every answer is a move -/

section
variable {i : Instr} {s : State}

/-- A state that holds a delay. -/
theorem waitThen_move {n : BitVec 32} {next : State → State}
    (he : s.engine.eng ∈ [Eng.rsHold1, .rsHold2, .recWait])
    (hnext : ∀ d, Move i s (next { s with dly := d })) : Move i s (waitThen n next s) := by
  rw [waitThen_step]
  split_ifs
  · exact hnext _
  · exact .waits _ he
  · exact .waits _ he

/-- A state that holds a write. -/
theorem sendThen_move {src : Nat → State → Byte} {n : Nat} {err : ErrKind} {next : State → State}
    (hsrc : ∀ k w, src k { s with wr := w } = src k s)
    (he : RunsIn i s [.ldHdr, .ldPay, .rnHdr, .vpSend, .rwWrite])
    (herr : err ∈ [ErrKind.commandSend, .blockSend, .writeError])
    (hnext : ∀ w : WriteRegs, w.act = false → Move i s (next (afterWrite s w []))) :
    Move i s (sendThen src n err next s) := by
  obtain ⟨w, q, ⟨hact, hq, h⟩ | ⟨hact, h⟩ | ⟨hact, h⟩⟩ := sendThen_leaves src n err next s hsrc
  · exact h ▸ .sends w q he hact hq
  · exact h ▸ hnext w hact
  · exact h ▸ .sendFails w s.host.xferCount err hact herr

/-- `RunsIn` of one state is `RunsIn` of more. -/
theorem RunsIn.mono {es fs : List Eng} (h : RunsIn i s es) (hsub : es ⊆ fs) : RunsIn i s fs :=
  h.imp_right fun he => hsub he

/-- A send that goes on to `e`. -/
theorem sendThen_gotoEng_move {src : Nat → State → Byte} {n : Nat} {err : ErrKind} {a e : Eng}
    (hsrc : ∀ k w, src k { s with wr := w } = src k s) (he : RunsIn i s [a])
    (hedge : (a, e) ∈ [(Eng.ldHdr, Eng.ldPay), (.ldPay, .ldFinish), (.vpSend, .vpRead)])
    (herr : err ∈ [ErrKind.commandSend, .blockSend, .writeError]) :
    Move i s (sendThen src n err (gotoEng e) s) := by
  have hsend : [a] ⊆ [Eng.ldHdr, .ldPay, .rnHdr, .vpSend, .rwWrite] := by
    simp only [List.mem_cons, Prod.mk.injEq, List.not_mem_nil, or_false] at hedge
    rcases hedge with ⟨rfl, -⟩ | ⟨rfl, -⟩ | ⟨rfl, -⟩ <;> decide
  refine sendThen_move hsrc (he.mono hsend) herr fun w hact => .sent w e hact (he.imp_right fun h => ?_)
  rwa [List.mem_singleton.mp h]

theorem vpSend_move (he : RunsIn i s [.vpSend]) : Move i s (vpSend s) :=
  sendThen_gotoEng_move (fun _ _ => rfl) he (by decide) (by decide)

theorem ldHdr_move (he : RunsIn i s [.ldHdr]) : Move i s (ldHdr s) :=
  sendThen_gotoEng_move (fun _ _ => rfl) he (by decide) (by decide)

theorem ldPay_move (he : RunsIn i s [.ldPay]) : Move i s (ldPay s) :=
  sendThen_gotoEng_move (fun _ w => patchedByte_wr w) he (by decide) (by decide)

/-- Recovery's run goes on to its wait (R224). -/
theorem rnDone_of_recovery (s : State) (h : s.engine.ctx = .recovery) : rnDone s = gotoEng .recWait s :=
  if_neg (by rw [h]; decide)

theorem rnHdr_move (he : RunsIn i s [.rnHdr]) : Move i s (rnHdr s) := by
  refine sendThen_move (fun _ _ => rfl) (he.mono (by decide)) (by decide) fun w hact => ?_
  cases hc : s.engine.ctx
  · rw [rnDone_of_cmd (afterWrite s w []) hc]
    exact .sentLast w s.host.xferCount hact (he.mono (by decide))
  · rw [rnDone_of_recovery (afterWrite s w []) hc]
    exact .runRecovers w hact he hc

theorem ldFinish_move (he : s.engine.eng = .ldFinish) : Move i s (ldFinish s) := by
  cases hc : s.engine.ctx
  · rw [ldFinish_of_cmd s hc]
    exact .loadEnds he hc
  · rw [ldFinish_of_recovery s hc]
    exact .loadRecovers he hc

theorem rwWrite_move (he : s.engine.eng = .rwWrite) : Move i s (rwWrite s) := by
  obtain ⟨w, q, hstate, ⟨hresult, hact, hq⟩ | ⟨hresult, hact, rfl⟩ | ⟨hresult, hact, rfl⟩⟩ :=
    logicalWrite_leaves dbufSource s.latched.len.toNat s fun _ _ => rfl
  all_goals simp only [rwWrite, hresult, hstate]
  · exact .sends w q (.inr (by rw [he]; decide)) hact hq
  · exact .sentLast w _ hact (.inr (by rw [he]; decide))
  · exact .sendFails w _ .writeError hact (by decide)

/-- The six states of the reset sequence. -/
theorem resetSeqStep_move {e : Eng} (he : s.engine.eng = e) (hreset : isResetState e = true) :
    Move i s (resetSeqStep e s) := by
  rcases isResetState_cases hreset with rfl | rfl | rfl | rfl | rfl | rfl
  · exact .modeSet he
  · exact .asserted he
  · exact waitThen_move (by rw [he]; decide) fun d => .held d _ (by rw [he]; decide)
  · exact .deasserted he
  · exact waitThen_move (by rw [he]; decide) fun d => .held d _ (by rw [he]; decide)
  · cases hc : s.engine.ctx
    · have hend : resetSeqStep .rsFinish s = complete (flushFifos s) := rsFinish_of_cmd s hc
      exact hend ▸ .resetEnds he hc
    · have hrec : resetSeqStep .rsFinish s = gotoEng .recCheck (flushFifos s) := rsFinish_of_recovery s hc
      exact hrec ▸ .resetRecovers he hc

/-- `VP_READ` and `RR_READ`. -/
theorem readIntoDbuf_move (he : s.engine.eng ∈ [Eng.rrRead, .vpRead]) : Move i s (readIntoDbuf s) := by
  have hreq : readRequest s = s.latched.len.toNat := by
    simp only [List.mem_cons, List.not_mem_nil, or_false] at he
    rcases he with he | he <;> simp only [readRequest, he]
  obtain ⟨r, q, m, hr, hstate, ⟨hresult, hgot⟩ | ⟨hresult, hact⟩⟩ :=
    logicalRead_leaves s dbufDest_stores s.latched.len.isLt
  all_goals simp only [readIntoDbuf, hresult, hstate]
  · rw [← hreq] at hr hgot
    exact .reads r q m (List.mem_of_mem_dropLast (l := [Eng.rrRead, .vpRead, .pk]) he) hr hgot
  · exact .readEnds _ r q m _ he hr hact

/-- A length operand, checked. -/
theorem withLen_move {len : BitVec 16} {next : State → State} (hd : Dispatches i s)
    (hnext : Move i s (next { s with latched.len := len })) : Move i s (withLen len next s) := by
  rcases withLen_cases len next s with ⟨-, h⟩ | ⟨-, h⟩
  · exact h ▸ hnext
  · exact h ▸ .refused hd

/-! ### The framer -/

/-- The five framer states that read one byte. -/
def oneByteStates : List Framer := [.readSizeHigh, .readSizeLow, .readFormat, .readRebootByteHigh, .readRebootByteLow]

theorem readRequest_of_oneByteState {f : Framer} (he : s.engine.eng = .pk) (hf : s.engine.fs = f)
    (hone : f ∈ oneByteStates) : readRequest s = 1 := by
  simp only [oneByteStates, List.mem_cons, List.not_mem_nil, or_false] at hone
  rcases hone with rfl | rfl | rfl | rfl | rfl <;> simp only [readRequest, he, hf]

/-- A state that reads one byte. -/
theorem readOneByte_move {got : Byte → State → State} {f : Framer} (he : s.engine.eng = .pk) (hf : s.engine.fs = f)
    (hone : f ∈ oneByteStates) (hgot : ∀ b r q m, TookByte f s r q m → Move i s (got b (afterRead s r q m))) :
    Move i s (readOneByte got s) := by
  obtain ⟨r, q, m, hr, hstate, ⟨hresult, hne⟩ | ⟨hresult, hact⟩⟩ :=
    logicalRead_leaves s noStore_stores (n := 1) (by decide)
  · simp only [readOneByte, hresult, hstate]
    rw [← readRequest_of_oneByteState he hf hone] at hr hne
    exact .reads r q m (by rw [he]; decide) hr hne
  · simp only [readOneByte, hresult, hstate]
    cases (logicalRead noStore 1 s).popped with
    | none => exact .readFails _ r q m he hr
    | some b => exact hgot b r q m ⟨he, hf, hr, hact⟩

section
variable {r : ReadRegs} {q : List Byte} {m : Memories}

/-- The dispatch of a payload type. -/
theorem payloadHeader_move {a b t : Byte} (hu : TookCode i .readFormat s r q m) :
    Move i s (payloadHeader (headerRegs a b t (afterRead s r q m))) := by
  unfold payloadHeader
  split_ifs
  · exact .headerEnds a b t r q m hu
  · exact .oversize a b t r q m hu
  · exact .payload a b t r q m hu

theorem dispatchType_move {t : Byte} (hu : TookByte .readFormat s r q m) :
    Move i s (dispatchType t (afterRead s r q m)) := by
  unfold dispatchType
  split
  case h_1 => exact .headerEnds _ _ t r q m (.inr hu)
  case h_5 => exact .threshold _ _ t r q m (.inr hu)
  case h_6 => exact .badType t r q m hu
  all_goals exact payloadHeader_move (.inr hu)

end

/-- A code that is run on its own has its bytes. -/
theorem tookCode_self {f : Framer} (h : isWireCode i = true) : TookCode i f s s.rd s.fifo.rxq s.mem :=
  .inl ⟨h, rfl, rfl, rfl⟩

theorem fsReadData_move (he : s.engine.eng = .pk) (hf : s.engine.fs = .readData) : Move i s (fsReadData s) := by
  have hreq : readRequest s = subReadLength s := by simp only [readRequest, he, hf]
  have hmax : subReadLength s < 65536 := by unfold subReadLength; omega
  unfold fsReadData
  split_ifs with hend
  · exact .payloadEnds he hf hend.1
  · obtain ⟨r, q, m, hr, hstate, ⟨hresult, hne⟩ | ⟨hresult, hact⟩⟩ := logicalRead_leaves s pktDest_stores hmax
    all_goals simp only [subRead, hresult, hstate]
    · rw [← hreq] at hr hne
      exact .reads r q m (by rw [he]; decide) hr hne
    · split_ifs
      · exact .readFails _ r q m he hr
      · exact .counts r q m he hf hr hact

theorem fsDoReset_move (he : s.engine.eng = .pk) (hf : s.engine.fs = .doReset) : Move i s (fsDoReset s) := by
  unfold fsDoReset
  split_ifs
  · exact .recovers he hf
  · exact .chunkCounted he hf

theorem framerStep_move {t : State} (he : s.engine.eng = .pk) (h : framerStep s = .next t) :
    Move .readPacket s t := by
  unfold framerStep at h
  split at h
  case h_1 => cases h
  all_goals cases h
  case h_2 hf => exact .framerStarts he hf
  case h_3 hf => exact readOneByte_move he hf (by decide) fun b r q m hu => .highByte _ _ b r q m (by decide) hu
  case h_4 hf => exact readOneByte_move he hf (by decide) fun b r q m hu => .sized _ r q m hu
  case h_5 hf => exact readOneByte_move he hf (by decide) fun b r q m hu => dispatchType_move hu
  case h_6 hf => exact fsReadData_move he hf
  case h_7 hf => exact fsDoReset_move he hf
  case h_8 hf => exact readOneByte_move he hf (by decide) fun b r q m hu => .highByte _ _ b r q m (by decide) hu
  case h_9 hf => exact readOneByte_move he hf (by decide) fun b r q m hu => .announces _ b r q m (.inr hu)
  case h_10 hf => exact .exposes rfl he hf

end

/-- READ_PACKET, by the engine state. -/
theorem execReadPacket_move {s t : State} (h : execReadPacket s = .next t) : Move .readPacket s t := by
  unfold execReadPacket at h
  cases he : s.engine.eng <;> simp only [he] at h
  case pk => exact framerStep_move he h
  all_goals cases h
  case rsMode | rsAssert | rsHold1 | rsDeassert | rsHold2 | rsFinish => exact resetSeqStep_move he rfl
  case recCheck =>
    unfold recCheck
    split_ifs
    · exact .reloads he
    · exact .reloadFails he
  case ldHdr => exact ldHdr_move (.inr (by rw [he]; decide))
  case ldPay => exact ldPay_move (.inr (by rw [he]; decide))
  case ldFinish => exact ldFinish_move he
  case rnClear => exact .countersCleared he
  case rnHdr => exact rnHdr_move (.inr (by rw [he]; decide))
  case recWait => exact waitThen_move (by rw [he]; decide) fun d => .resumes d he
  all_goals exact .packetDispatched rfl fun c => by rw [he]; cases c <;> rfl

/-- RESET_UNIT: a state of the sequence, or the dispatch step. -/
theorem execResetUnit_move {s t : State} {pm nr ap : Bool} (h : exec (.resetUnit pm nr ap) s = .next t) :
    Move (.resetUnit pm nr ap) s t := by
  cases hreset : isResetState s.engine.eng
  · rw [exec_resetUnit_of_not_resetState s pm nr ap hreset] at h
    cases h
    have hd : Dispatches (.resetUnit pm nr ap) s := fun c => by
      cases c
      · exact hreset
      · rfl
    exact .dispatched .rsMode { s.latched with rmode := modeBits pm nr ap } s.fifo hd rfl (by simp) (.inl rfl)
  · rw [exec_of_resetState rfl hreset (List.mem_cons_self ..)] at h
    cases h
    exact resetSeqStep_move rfl hreset

/-- LOAD_PLUGIN, by the engine state. -/
theorem execLoadPlugin_move (s : State) {t : State} (h : execLoadPlugin s = .next t) : Move .loadPlugin s t := by
  unfold execLoadPlugin at h
  cases he : s.engine.eng <;> simp only [he] at h <;> cases h
  case ldHdr => exact ldHdr_move (.inr (by rw [he]; decide))
  case ldPay => exact ldPay_move (.inr (by rw [he]; decide))
  case ldFinish => exact ldFinish_move he
  all_goals
    exact .dispatched .ldHdr s.latched s.fifo (fun c => by rw [he]; cases c <;> rfl) rfl Instr.noConfusion (.inl rfl)

/-- RUN_PLUGIN, by the engine state. -/
theorem execRunPlugin_move (s : State) {t : State} (h : execRunPlugin s = .next t) : Move .runPlugin s t := by
  unfold execRunPlugin at h
  cases he : s.engine.eng <;> simp only [he] at h <;> cases h
  case rnClear => exact .countersCleared he
  case rnHdr => exact rnHdr_move (.inr (by rw [he]; decide))
  all_goals
    exact .dispatched .rnClear s.latched s.fifo (fun c => by rw [he]; cases c <;> rfl) rfl Instr.noConfusion (.inl rfl)

/-- A command with a length operand dispatches. -/
theorem withLen_dispatched {i : Instr} {s : State} {len : BitVec 16} {e : Eng} {f : Fifos} (hd : Dispatches i s)
    (hown : ownState i .cmd e = true) (hi : i ≠ .readPacket) (hf : f = s.fifo ∨ f = { rxq := [], txq := [] }) :
    Move i s (withLen len (fun u => gotoEng e { u with fifo := f }) s) :=
  withLen_move hd (.dispatched e { s.latched with len := len } f hd hown hi hf)

/-- GET_VERSION, by the engine state. -/
theorem execGetVersion_move (s : State) {t : State} {len : BitVec 16} (h : execGetVersion len s = .next t) :
    Move (.getVersion len) s t := by
  unfold execGetVersion at h
  cases he : s.engine.eng <;> simp only [he] at h <;> cases h
  case vpSend => exact vpSend_move (.inr (by rw [he]; decide))
  case vpRead => exact readIntoDbuf_move (by rw [he]; decide)
  all_goals exact withLen_dispatched (fun c => by rw [he]; cases c <;> rfl) rfl Instr.noConfusion (.inr rfl)

/-- READ, by the engine state. -/
theorem execRead_move (s : State) {t : State} {len : BitVec 16} (h : execRead len s = .next t) :
    Move (.read len) s t := by
  unfold execRead at h
  cases he : s.engine.eng <;> simp only [he] at h <;> cases h
  case rrRead => exact readIntoDbuf_move (by rw [he]; decide)
  all_goals exact withLen_dispatched (fun c => by rw [he]; cases c <;> rfl) rfl Instr.noConfusion (.inl rfl)

/-- WRITE, by the engine state. -/
theorem execWrite_move (s : State) {t : State} {len : BitVec 16} (h : execWrite len s = .next t) :
    Move (.write len) s t := by
  unfold execWrite at h
  cases he : s.engine.eng <;> simp only [he] at h <;> cases h
  case rwWrite => exact rwWrite_move he
  all_goals exact withLen_dispatched (fun c => by rw [he]; cases c <;> rfl) rfl Instr.noConfusion (.inl rfl)

/-- Every answer of `exec` is a move. -/
theorem exec_move {i : Instr} {s t : State} (h : exec i s = .next t) : Move i s t := by
  cases i with
  | nop =>
    cases h
    exact .nop rfl fun c => by cases c <;> rfl
  | flush =>
    cases h
    exact .flush rfl fun c => by cases c <;> rfl
  | imgClear =>
    cases h
    exact .imgClear rfl fun c => by cases c <;> rfl
  | readPacket => exact execReadPacket_move h
  | resetUnit pm nr ap => exact execResetUnit_move h
  | loadPlugin => exact execLoadPlugin_move s h
  | runPlugin => exact execRunPlugin_move s h
  | getVersion len => exact execGetVersion_move s h
  | read len => exact execRead_move s h
  | write len => exact execWrite_move s h
  | versionQuery =>
    cases h
    exact vpSend_move (.inl rfl)
  | loadHdr =>
    cases h
    exact ldHdr_move (.inl rfl)
  | runHdr =>
    cases h
    exact rnHdr_move (.inl rfl)
  | pktEod hi lo =>
    cases h
    exact .headerEnds hi lo 0 _ _ _ (tookCode_self rfl)
  | pktPrg hi lo | pktChr hi lo | pktWram hi lo =>
    cases h
    exact payloadHeader_move (tookCode_self rfl)
  | pktReset hi lo =>
    cases h
    exact .threshold hi lo 4 _ _ _ (tookCode_self rfl)
  | rebootAnnounce hi lo =>
    cases h
    exact .announces hi lo _ _ _ (tookCode_self rfl)

end Sys2Proof.Machine

/-! PROOFS. What instructions write (10_state.md): each statement by the cases of `Move`. -/

namespace Sys2Proof.Machine

/-- The account of a sub-read: a full chunk, the end of the payload, or neither (R252, R253). -/
theorem account_cases (n : Nat) (s : State) :
    (s.work.j.toNat + n = 1024 ∧ account n s = { s with
      work.i := s.work.i + 1024, work.j := 0
      engine.fs := if s.session.rbyte ≠ 0 then .doReset
        else if s.work.i + 1024 = s.work.size then .endState else s.engine.fs }) ∨
    (s.work.j.toNat + n ≠ 1024 ∧ s.work.i.toNat + (s.work.j.toNat + n) = s.work.size.toNat ∧
      account n s = { s with
        work.i := s.work.i + BitVec.ofNat 24 (s.work.j.toNat + n), work.j := 0, engine.fs := .endState }) ∨
    (s.work.j.toNat + n ≠ 1024 ∧ s.work.i.toNat + (s.work.j.toNat + n) ≠ s.work.size.toNat ∧
      account n s = { s with work.j := BitVec.ofNat 11 (s.work.j.toNat + n) }) := by
  unfold account
  by_cases hchunk : s.work.j.toNat + n = 1024
  · refine .inl ⟨hchunk, ?_⟩
    simp only [hchunk, if_true, fullChunk]
    split_ifs <;> rfl
  · by_cases hend : s.work.i.toNat + (s.work.j.toNat + n) = s.work.size.toNat
    · refine .inr (.inl ⟨hchunk, hend, ?_⟩)
      simp only [hchunk, hend, if_false, if_true]
      rfl
    · refine .inr (.inr ⟨hchunk, hend, ?_⟩)
      simp only [hchunk, hend, if_false]

/-- The account of a sub-read changes the working registers and the framer state only. -/
theorem account_eq (n : Nat) (s : State) :
    account n s = { s with work := (account n s).work, engine.fs := (account n s).engine.fs } := by
  rcases account_cases n s with ⟨-, h⟩ | ⟨-, -, h⟩ | ⟨-, -, h⟩ <;> rw [h]

section
variable {i : Instr} {s t : State}

/-- No move changes the parameters, the word of the command, or `AUX_OUT`. -/
theorem Move.cfg (h : Move i s t) : t.cfg = s.cfg := by
  cases h
  case counts => rw [account_eq]; rfl
  all_goals rfl

theorem Move.cmdLast (h : Move i s t) : t.status.cmdLast = s.status.cmdLast := by
  cases h
  case counts => rw [account_eq]; rfl
  all_goals rfl

/-- `PKT_VALID` is kept or cleared, but for the move of `End` (R24). -/
theorem Move.pktValid (h : Move i s t) :
    t.status.pktValid = s.status.pktValid ∨ t.status.pktValid = false ∨
      i = .readPacket ∧ s.engine.eng = .pk ∧ s.engine.fs = .endState ∧ t.engine = idleEngine := by
  cases h
  case exposes hi he hf => exact .inr (.inr ⟨hi, he, hf, rfl⟩)
  case packetDispatched => exact .inr (.inl rfl)
  case counts => rw [account_eq]; exact .inl rfl
  all_goals exact .inl rfl

/-- The lines are kept, but in `RS_MODE`, `RS_ASSERT` and `RS_DEASSERT` (R178, R180). -/
theorem Move.lines (h : Move i s t) :
    t.lines.auxOut = s.lines.auxOut ∧ (s.engine.eng ≠ .rsMode → t.lines.mode = s.lines.mode) ∧
      (s.engine.eng ≠ .rsAssert → s.engine.eng ≠ .rsDeassert → t.lines.dtr = s.lines.dtr) := by
  cases h
  case modeSet he => exact ⟨rfl, fun hne => absurd he hne, fun _ _ => rfl⟩
  case asserted he => exact ⟨rfl, fun _ => rfl, fun hne => absurd he hne⟩
  case deasserted he => exact ⟨rfl, fun _ => rfl, fun _ hne => absurd he hne⟩
  case counts => rw [account_eq]; exact ⟨rfl, fun _ => rfl, fun _ _ => rfl⟩
  all_goals exact ⟨rfl, fun _ => rfl, fun _ _ => rfl⟩

/-- The host's registers are kept, but for `XFER_COUNT`, and `IMG_PTR` at IMG_CLEAR (R32, R40, R41). -/
theorem Move.host (h : Move i s t) :
    t.host.timeout = s.host.timeout ∧ t.host.pktPtr = s.host.pktPtr ∧ t.host.dbufPtr = s.host.dbufPtr ∧
      t.host.uv = s.host.uv ∧ (i ≠ .imgClear → t.host.imgPtr = s.host.imgPtr) := by
  cases h
  case imgClear hi _ => exact ⟨rfl, rfl, rfl, rfl, fun hne => absurd hi hne⟩
  case counts => rw [account_eq]; exact ⟨rfl, rfl, rfl, rfl, fun _ => rfl⟩
  all_goals exact ⟨rfl, rfl, rfl, rfl, fun _ => rfl⟩

/-- A read stores nothing in `IMG`. -/
theorem StoredIn.img {m : Memories} (h : StoredIn s m) : m.img = s.mem.img := by
  rcases h with rfl | ⟨id, a, b, hid, rfl⟩
  · rfl
  · unfold memWrite
    split
    · cases id
      · exact absurd rfl hid
      · rfl
      · rfl
    · rfl

/-- The byte of a code is taken from `rxq`, if from anywhere. -/
theorem TookCode.leaves {f : Framer} {r : ReadRegs} {q : List Byte} {m : Memories} (h : TookCode i f s r q m) :
    StoredIn s m ∧ q.length ≤ s.fifo.rxq.length := by
  rcases h with ⟨-, -, rfl, rfl⟩ | ⟨-, -, hr, -⟩
  · exact ⟨.inl rfl, le_rfl⟩
  · exact ⟨hr.stored, hr.queue⟩

/-- The memories after a move: those before it with at most a byte stored outside `IMG`, or `IMG` cleared. -/
theorem Move.mem (h : Move i s t) : StoredIn s t.mem ∨ i = .imgClear ∧ t.mem = { s.mem with img := [] } := by
  cases h
  case imgClear hi _ => exact .inr ⟨hi, rfl⟩
  case reads hr _ | readEnds hr _ | readFails hr => exact .inl hr.stored
  case highByte hu | sized hu | badType hu =>
    obtain ⟨-, -, hr, -⟩ := hu
    exact .inl hr.stored
  case headerEnds hu | oversize hu | payload hu | threshold hu | announces hu => exact .inl hu.leaves.1
  case counts hr _ => rw [account_eq]; exact .inl hr.stored
  all_goals exact .inl (.inl rfl)

/-- `RESULT` and `LAST_ERR` after a move: kept, a completion, or an abort (R30, R31, R301). -/
theorem Move.result (h : Move i s t) :
    (t.status.result = s.status.result ∧ t.status.lastErr = s.status.lastErr) ∨
      (∃ u, t = complete u ∧ u.status.lastErr = s.status.lastErr) ∨
      ∃ e u, t = raiseError e u ∧ e ∉ [ErrKind.dataOpen, .controlOpen] := by
  cases h
  case nop | flush | imgClear | resetEnds | loadEnds | sentLast | readEnds | exposes => exact .inr (.inl ⟨_, rfl, rfl⟩)
  case refused | reloadFails | readFails | oversize | badType => exact .inr (.inr ⟨_, _, rfl, by decide⟩)
  case sendFails err _ herr =>
    refine .inr (.inr ⟨_, _, rfl, ?_⟩)
    simp only [List.mem_cons, List.not_mem_nil, or_false] at herr
    rcases herr with rfl | rfl | rfl <;> decide
  case counts => rw [account_eq]; exact .inl ⟨rfl, rfl⟩
  all_goals exact .inl ⟨rfl, rfl⟩

/-- Outside `PK` and the dispatch step READ_PACKET keeps the working registers. -/
theorem Move.work (h : Move i s t) (hi : isWireCode i = false) (he : s.engine.eng ≠ .pk) : t.work = s.work := by
  have htaken {f : Framer} {r : ReadRegs} {q : List Byte} {m : Memories} : ¬TookByte f s r q m := fun hu => he hu.1
  have hcode {f : Framer} {r : ReadRegs} {q : List Byte} {m : Memories} : ¬TookCode i f s r q m := by
    rintro (⟨hwire, -⟩ | hu)
    · exact absurd hwire (by rw [hi]; decide)
    · exact he hu.1
  cases h
  case highByte hu | sized hu | badType hu => exact absurd hu htaken
  case headerEnds hu | oversize hu | payload hu | threshold hu | announces hu => exact absurd hu hcode
  case framerStarts hpk _ | counts hpk _ _ _ => exact absurd hpk he
  all_goals rfl

end

/-! ### The statements -/

/-- The codes an engine state can raise (R301). -/
theorem errCode_range : ∀ e : ErrKind, e ∉ [ErrKind.dataOpen, .controlOpen] →
    3 ≤ (errCode e).toNat ∧ (errCode e).toNat ≤ 10 := by
  intro e
  cases e <;> decide

/-- Settles O49: recovery is outside `PK`. -/
theorem recoveryKeepsPosition : Obligations.RecoveryKeepsPosition := by
  intro s t hrec h
  refine (exec_move h).work rfl fun hpk => ?_
  rw [hpk] at hrec
  exact absurd hrec (by decide)

/-- Settles O50: every other move keeps or clears the flag. -/
theorem onlyEndExposesThePacket : Obligations.OnlyEndExposesThePacket := by
  intro i s t h hbefore hafter
  rcases (exec_move h).pktValid with hkept | hcleared | ⟨hi, hpk, hend, -⟩
  · exact absurd (hafter.symm.trans (hkept.trans hbefore)) (by decide)
  · exact absurd (hafter.symm.trans hcleared) (by decide)
  · exact ⟨hi, hpk, hend⟩

/-- Settles O51. -/
theorem linesWrittenOnlyByResetStates : Obligations.LinesWrittenOnlyByResetStates :=
  fun _ _ _ h => (exec_move h).lines

/-- Settles O52: the registers by the moves, the image because a read stores outside it. -/
theorem engineNeverWritesHostRegisters : Obligations.EngineNeverWritesHostRegisters := by
  intro i s t h
  obtain ⟨htimeout, hpkt, hdbuf, huv, himg⟩ := (exec_move h).host
  refine ⟨htimeout, hpkt, hdbuf, huv, fun hi => ⟨himg hi, ?_⟩⟩
  rcases (exec_move h).mem with hstored | ⟨hclear, -⟩
  · exact hstored.img
  · exact absurd hclear hi

/-- Settles O53: kept, `complete`, or `raiseError`. -/
theorem resultAndLastError : Obligations.ResultAndLastError := by
  intro i s t h
  rcases (exec_move h).result with hkept | ⟨u, rfl, hu⟩ | ⟨e, u, rfl, he⟩
  · exact .inl hkept
  · exact .inr (.inl ⟨rfl, hu, rfl⟩)
  · exact .inr (.inr ⟨rfl, (errCode_range e he).1, (errCode_range e he).2, rfl, rfl⟩)

end Sys2Proof.Machine

/-! PROOFS. The phases around the engine step: P4's transmitter (R137 to R139), what P1, P2, P4 and P5 carry over, and a
step taken apart: every invariant goes by `step_cases`. -/

namespace Sys2Proof.Machine

/-! ### The transmitter (R137 to R139) -/

section
variable (s : State)

/-- The line after the advance: free, at a character's end or before (R137). -/
theorem advanceChar_of_free (h : s.tx.busy = false ∨ s.tx.cnt = 0) :
    advanceChar s = { s with tx.busy := false } := by
  cases hline : s.tx.busy
  · have hkeep : advanceChar s = s := if_neg (by rw [hline]; decide)
    rw [hkeep, ← hline]
  · exact (if_pos hline).trans (if_pos (h.resolve_left (by rw [hline]; decide)))

/-- A character on the line goes on (R137). -/
theorem advanceChar_of_busy (h : s.tx.busy = true) (hcnt : s.tx.cnt ≠ 0) :
    advanceChar s = { s with tx.cnt := s.tx.cnt - 1 } :=
  (if_pos h).trans (if_neg hcnt)

/-- A byte at the head of `txq` starts or waits (R137, R138). -/
theorem startChar_of_cons {b : Byte} {q : List Byte} (hq : s.fifo.txq = b :: q) :
    startChar s = if s.tx.busy = false ∧ s.sync.cts2 = true then { s with
      fifo.txq := q, tx := { busy := true, cnt := s.cfg.frameCycles - 1, byte := b }, out.txEv := some b
      wr := if s.wr.act then { s.wr with sent := s.wr.sent + 1, stall := s.cfg.writeStall } else s.wr } else s := by
  simp only [startChar, hq]
  split_ifs <;> rfl

/-- With the line free and CTS set the oldest byte starts, counted for the write in progress (R137, R138). -/
theorem startChar_of_ready {b : Byte} {q : List Byte} (hq : s.fifo.txq = b :: q) (hline : s.tx.busy = false)
    (hcts : s.sync.cts2 = true) :
    startChar s = { s with
      fifo.txq := q, tx := { busy := true, cnt := s.cfg.frameCycles - 1, byte := b }, out.txEv := some b
      wr := if s.wr.act then { s.wr with sent := s.wr.sent + 1, stall := s.cfg.writeStall } else s.wr } :=
  (startChar_of_cons s hq).trans (if_pos ⟨hline, hcts⟩)

/-- An empty `txq` starts nothing. -/
theorem startChar_of_nil (hq : s.fifo.txq = []) : startChar s = s := by
  unfold startChar
  rw [hq]

/-- Without a byte, a free line and CTS no character starts (R138, R139). -/
theorem startChar_of_not_ready (h : s.fifo.txq = [] ∨ s.tx.busy = true ∨ s.sync.cts2 = false) :
    startChar s = s := by
  cases hq : s.fifo.txq with
  | nil => exact startChar_of_nil s hq
  | cons b q =>
    refine (startChar_of_cons s hq).trans (if_neg ?_)
    rintro ⟨hline, hcts⟩
    simp [hq, hline, hcts] at h

/-- No character starts, or the oldest byte does. -/
theorem startChar_cases :
    startChar s = s ∨ ∃ b q, s.fifo.txq = b :: q ∧ startChar s = { s with
      fifo.txq := q, tx := { busy := true, cnt := s.cfg.frameCycles - 1, byte := b }, out.txEv := some b
      wr := if s.wr.act then { s.wr with sent := s.wr.sent + 1, stall := s.cfg.writeStall } else s.wr } := by
  cases hq : s.fifo.txq with
  | nil => exact .inl (startChar_of_not_ready s (.inl hq))
  | cons b q =>
    cases hline : s.tx.busy
    · cases hcts : s.sync.cts2
      · exact .inl (startChar_of_not_ready s (.inr (.inr hcts)))
      · exact .inr ⟨b, q, rfl, startChar_of_ready s hq hline hcts⟩
    · exact .inl (startChar_of_not_ready s (.inr (.inl hline)))

/-- The advance touches the transmitter only. -/
theorem advanceChar_eq : advanceChar s = { s with tx := (advanceChar s).tx } := by
  unfold advanceChar
  split_ifs <;> rfl

/-- P4 takes at most the oldest byte of `txq`, and starts or ends no write. -/
theorem phase4_fifo :
    (phase4 s).fifo.rxq = s.fifo.rxq ∧ (phase4 s).wr.act = s.wr.act ∧
      ((phase4 s).fifo.txq = s.fifo.txq ∨ ∃ b, s.fifo.txq = b :: (phase4 s).fifo.txq) := by
  unfold phase4 driveTxd
  rcases startChar_cases (advanceChar s) with h | ⟨b, q, hq, h⟩
  · rw [h, advanceChar_eq]
    exact ⟨rfl, rfl, .inl rfl⟩
  · rw [h, advanceChar_eq]
    rw [advanceChar_eq] at hq
    refine ⟨rfl, ?_, .inr ⟨b, hq⟩⟩
    simp only
    split_ifs <;> rfl

end

/-- Settles O21: the line by its advance, then the start by what is missing for it. -/
theorem transmitterSendsOldestByte : Obligations.TransmitterSendsOldestByte := by
  intro s hev
  have hphase {u v : State} (hline : advanceChar s = u) (hstart : startChar u = v) : phase4 s = driveTxd v := by
    rw [phase4, hline, hstart]
  refine ⟨fun b q hfree hq hcts => ?_, fun hcts => ?_, fun hfree hnot => ?_, fun hline hcnt => ?_, phase4_eq s⟩
  · rw [hphase (advanceChar_of_free s hfree) (startChar_of_ready _ hq rfl hcts)]
    exact ⟨rfl, rfl, rfl, fun hact => if_pos hact, fun hact => if_neg (by rw [hact]; decide)⟩
  · rw [hphase (advanceChar_eq s) (startChar_of_not_ready _ (.inr (.inr hcts)))]
    exact ⟨hev, rfl, rfl⟩
  · rw [hphase (advanceChar_of_free s hfree) (startChar_of_not_ready _ (hnot.symm.imp_right .inr))]
    exact ⟨hev, rfl, rfl, rfl⟩
  · rw [hphase (advanceChar_of_busy s hline hcnt) (startChar_of_not_ready _ (.inr (.inl hline)))]
    exact ⟨hev, rfl, rfl, rfl⟩

/-! ### What the phases carry over -/

/-- `t` has the registers of `s` that the engine's invariants speak of, but for the write's. -/
structure Carried (s t : State) : Prop where
  cfg : t.cfg = s.cfg
  engine : t.engine = s.engine
  busy : t.status.busy = s.status.busy
  cmdLast : t.status.cmdLast = s.status.cmdLast
  pktValid : t.status.pktValid = s.status.pktValid
  session : t.session = s.session
  work : t.work = s.work
  rd : t.rd = s.rd
  latched : t.latched = s.latched

theorem Carried.refl (s : State) : Carried s s := ⟨rfl, rfl, rfl, rfl, rfl, rfl, rfl, rfl, rfl⟩

theorem Carried.trans {s t u : State} (h : Carried s t) (h' : Carried t u) : Carried s u :=
  ⟨h'.cfg.trans h.cfg, h'.engine.trans h.engine, h'.busy.trans h.busy, h'.cmdLast.trans h.cmdLast,
    h'.pktValid.trans h.pktValid, h'.session.trans h.session, h'.work.trans h.work, h'.rd.trans h.rd,
    h'.latched.trans h.latched⟩

/-- `m` are the memories of `s`, with at most one byte stored. -/
def WroteIn (s : State) (m : Memories) : Prop := m = s.mem ∨ ∃ id a b, m = (memWrite id a b s).mem

/-- What a host access other than an accepted command word leaves. -/
structure HostPhase (s t : State) : Prop where
  carried : Carried s t
  wr : t.wr = s.wr
  fifo : t.fifo = s.fifo
  mem : WroteIn s t.mem

theorem HostPhase.refl (s : State) : HostPhase s s := ⟨.refl s, rfl, rfl, .inl rfl⟩

/-- A write while idle: an accepted command word, or a register of the host's. -/
theorem writeIdle_phase (r : Reg) (data : Word) (s : State) :
    writeIdle r data s = issue data s ∨ HostPhase s (writeIdle r data s) := by
  cases r
  case cmd => exact .inl rfl
  case imgData =>
    refine .inr ?_
    rw [writeIdle, writeImgData_eq]
    exact ⟨⟨rfl, rfl, rfl, rfl, rfl, rfl, rfl, rfl, rfl⟩, rfl, rfl, .inr ⟨_, _, _, rfl⟩⟩
  case dbufData =>
    refine .inr ?_
    rw [writeIdle, writeDbufData_eq]
    exact ⟨⟨rfl, rfl, rfl, rfl, rfl, rfl, rfl, rfl, rfl⟩, rfl, rfl, .inr ⟨_, _, _, rfl⟩⟩
  all_goals exact .inr ⟨⟨rfl, rfl, rfl, rfl, rfl, rfl, rfl, rfl, rfl⟩, rfl, rfl, .inl rfl⟩

/-- A host write: an accepted command word, or a register of the host's, or rejected. -/
theorem writeReg_phase (r : Reg) (data : Word) (s : State) :
    s.status.busy = false ∧ writeReg r data s = issue data s ∨ HostPhase s (writeReg r data s) := by
  cases hbusy : s.status.busy
  · rw [writeReg_of_idle r data s hbusy]
    exact (writeIdle_phase r data s).imp_left fun h => ⟨rfl, h⟩
  · refine .inr ?_
    by_cases hr : r = .status
    · rw [hr, writeReg_status]
      exact ⟨⟨rfl, rfl, rfl, rfl, rfl, rfl, rfl, rfl, rfl⟩, rfl, rfl, .inl rfl⟩
    · rw [writeReg_of_busy r data s hbusy hr]
      exact ⟨⟨rfl, rfl, rfl, rfl, rfl, rfl, rfl, rfl, rfl⟩, rfl, rfl, .inl rfl⟩

/-- A read's side effect is on the host's registers only. -/
theorem readEffect_eq (r : Reg) (s : State) : readEffect r s = { s with host := (readEffect r s).host } := by
  cases r <;> rfl

/-- P1 issues a command to the idle block, or carries the engine's registers over. -/
theorem phase1_phase (b : Bus) (s : State) :
    s.status.busy = false ∧ (∃ w, phase1 b s = issue w s) ∨ HostPhase s (phase1 b s) := by
  cases b with
  | none => exact .inr (.refl s)
  | read addr =>
    have hread : phase1 (.read addr) s =
        readEffect (regAt addr) { s with out.rdata := some (readReg (regAt addr) s) } := rfl
    rw [hread, readEffect_eq]
    exact .inr ⟨⟨rfl, rfl, rfl, rfl, rfl, rfl, rfl, rfl, rfl⟩, rfl, rfl, .inl rfl⟩
  | write addr data =>
    exact (writeReg_phase (regAt addr) data s).imp_left fun ⟨hidle, h⟩ => ⟨hidle, data, h⟩

/-- P2 changes `rxq`, two sticky flags and the bit-level receiver. -/
theorem phase2_eq (p : RxPort) (s : State) :
    phase2 p s = { s with
      fifo.rxq := (phase2 p s).fifo.rxq, bitRx := (phase2 p s).bitRx
      status.rxOvr := (phase2 p s).status.rxOvr, status.rxFerr := (phase2 p s).status.rxFerr } := by
  unfold phase2 receive
  simp only
  split
  · rfl
  · split_ifs <;> rfl
  · rfl

/-- P2 pushes a byte only where there is room (R131, R132). -/
theorem phase2_rxq_length (p : RxPort) (s : State) (h : s.fifo.rxq.length ≤ s.cfg.rxFifoDepth) :
    (phase2 p s).fifo.rxq.length ≤ s.cfg.rxFifoDepth := by
  unfold phase2 receive
  simp only
  split
  · exact h
  · split_ifs with hroom
    · simpa using hroom
    · exact h
  · exact h

theorem phase2_carried (p : RxPort) (s : State) : Carried s (phase2 p s) := by
  rw [phase2_eq]
  exact ⟨rfl, rfl, rfl, rfl, rfl, rfl, rfl, rfl, rfl⟩

/-- What P3 starts from: the registers of the step's start, or those with a command just issued. -/
theorem beforeEngine_carried (s : State) :
    ∃ u, (u = s ∨ s.status.busy = false ∧ ∃ w, u = issue w s) ∧ Carried u (beforeEngine s) ∧
      (beforeEngine s).wr = s.wr ∧ (beforeEngine s).fifo.txq = s.fifo.txq := by
  unfold beforeEngine
  have hrx := phase2_carried (nextInput s).rx (phase1 (nextInput s).bus (beginStep s))
  rw [phase2_eq]
  rw [phase2_eq] at hrx
  rcases phase1_phase (nextInput s).bus (beginStep s) with ⟨hidle, w, h⟩ | h
  · refine ⟨issue w s, .inr ⟨hidle, w, rfl⟩, .trans ?_ hrx, ?_⟩
    · rw [h]
      exact ⟨rfl, rfl, rfl, rfl, rfl, rfl, rfl, rfl, rfl⟩
    · rw [h]
      exact ⟨rfl, rfl⟩
  · have hbegin : Carried s (beginStep s) := ⟨rfl, rfl, rfl, rfl, rfl, rfl, rfl, rfl, rfl⟩
    have htxq : (phase1 (nextInput s).bus (beginStep s)).fifo.txq = s.fifo.txq := by
      rw [h.fifo]
      rfl
    exact ⟨s, .inl rfl, (hbegin.trans h.carried).trans hrx, h.wr, htxq⟩

/-- P4 and P5 carry the engine's registers over. -/
theorem afterEngine_carried (i : Inputs) (s : State) : Carried s (afterEngine i s) := by
  unfold afterEngine phase5
  rw [phase4_eq]
  exact ⟨rfl, rfl, rfl, rfl, rfl, rfl, rfl, rfl, rfl⟩

/-- P4 and P5 leave the memories. -/
theorem afterEngine_mem (i : Inputs) (s : State) : (afterEngine i s).mem = s.mem := by
  unfold afterEngine phase5
  rw [phase4_eq]

/-! ### A step taken apart -/

/-- What P3 does between `s` and `t`: nothing while idle, the refusal of a word, or a move of the command in progress
(R9, R92). -/
inductive EngineStep (s : State) : State → Prop
  | idle (he : s.engine.eng = .idle) : EngineStep s s
  | refuses (he : s.engine.eng ≠ .idle) (e : DecodeError) (hw : decodeCommand s.status.cmdLast = .error e) :
      EngineStep s (raiseError .invalidParams s)
  | runs (he : s.engine.eng ≠ .idle) (i : Instr) (hw : decodeCommand s.status.cmdLast = .ok i) {t : State}
      (h : exec i s = .next t) : EngineStep s t

theorem phase3_engineStep {s t : State} (h : phase3 s = .next t) : EngineStep s t := by
  unfold phase3 at h
  split_ifs at h with he
  · cases h
    exact .idle he
  · split at h
    next i hw => exact .runs he i hw h
    next e hw =>
      cases h
      exact .refuses he e hw

/-- With `rst` set a step is the reset (R340). -/
theorem step_of_rst {s : State} (hrst : (nextInput s).rst = true) : step s = .next (resetStep (nextInput s) s) :=
  if_pos hrst

/-- Without `rst` a step is P1 to P5 in order (R9). -/
theorem step_of_not_rst {s : State} (hrst : (nextInput s).rst = false) :
    step s = finishStep (nextInput s) (phase3 (beforeEngine s)) :=
  if_neg (by rw [hrst]; decide)

/-- P4 and P5 follow an engine that answers. -/
theorem finishStep_eq_next {i : Inputs} {o : Host.Outcome State Fault Refusal} {t : State}
    (h : finishStep i o = .next t) : ∃ u, o = .next u ∧ t = afterEngine i u := by
  cases o with
  | next u =>
    cases h
    exact ⟨u, rfl, rfl⟩
  | fault f => cases h
  | refused r => cases h

/-- A step without `rst` is P3 between the phases around it. -/
theorem step_cases_of_not_rst {s t : State} (hrst : (nextInput s).rst = false) (h : step s = .next t) :
    ∃ u, EngineStep (beforeEngine s) u ∧ t = afterEngine (nextInput s) u := by
  rw [step_of_not_rst hrst] at h
  obtain ⟨u, hu, ht⟩ := finishStep_eq_next h
  exact ⟨u, phase3_engineStep hu, ht⟩

/-- A step is a reset, or P3 between the phases around it. -/
theorem step_cases {s t : State} (h : step s = .next t) :
    t = resetStep (nextInput s) s ∨
      ∃ u, EngineStep (beforeEngine s) u ∧ t = afterEngine (nextInput s) u := by
  cases hrst : (nextInput s).rst
  · exact .inr (step_cases_of_not_rst hrst h)
  · rw [step_of_rst hrst] at h
    cases h
    exact .inl rfl

end Sys2Proof.Machine

/-! PROOFS. The invariants of the memories, the FIFOs, the threshold and the hidden packet (10_state.md): each is kept by
the phases around P3 and by every move. -/

namespace Sys2Proof.Machine

section
variable {i : Instr} {s t : State}

/-! ### The canonical form (R52 to R54) -/

/-- A byte stored keeps the canonical form. -/
theorem memoryCanonical_of_wroteIn (h : memoryCanonical s) (hcfg : t.cfg = s.cfg) (hmem : WroteIn s t.mem) :
    memoryCanonical t := by
  unfold memoryCanonical
  rw [hcfg]
  rcases hmem with hmem | ⟨id, a, b, hmem⟩
  · exact hmem ▸ h
  · exact hmem ▸ memWrite_wf id a b s h

/-- A cleared image keeps the canonical form. -/
theorem memoryCanonical_of_cleared (h : memoryCanonical s) (hcfg : t.cfg = s.cfg)
    (hmem : t.mem = { s.mem with img := [] }) : memoryCanonical t := by
  unfold memoryCanonical Memories.wf at *
  rw [hcfg, hmem]
  simp only [Bool.and_eq_true] at h ⊢
  obtain ⟨⟨-, hpkt⟩, hdbuf⟩ := h
  exact ⟨⟨rfl, hpkt⟩, hdbuf⟩

/-- A step of a read stores at most a byte. -/
theorem StoredIn.wroteIn {m : Memories} (h : StoredIn s m) : WroteIn s m :=
  h.imp_right fun ⟨id, a, b, _, hm⟩ => ⟨id, a, b, hm⟩

theorem Move.memoryCanonical (h : Move i s t) (hs : memoryCanonical s) : memoryCanonical t := by
  rcases h.mem with hstored | ⟨-, hclear⟩
  · exact memoryCanonical_of_wroteIn hs h.cfg hstored.wroteIn
  · exact memoryCanonical_of_cleared hs h.cfg hclear

theorem memoryCanonical_beforeEngine (hs : memoryCanonical s) : memoryCanonical (beforeEngine s) := by
  have hbegin : memoryCanonical (beginStep s) := hs
  have hhost : memoryCanonical (phase1 (nextInput s).bus (beginStep s)) := by
    rcases phase1_phase (nextInput s).bus (beginStep s) with ⟨-, w, h⟩ | h
    · exact h ▸ hbegin
    · exact memoryCanonical_of_wroteIn hbegin h.carried.cfg h.mem
  unfold beforeEngine
  rw [phase2_eq]
  exact hhost

theorem EngineStep.memoryCanonical (h : EngineStep s t) (hs : memoryCanonical s) : memoryCanonical t := by
  cases h with
  | idle => exact hs
  | refuses => exact hs
  | runs _ i _ h => exact (exec_move h).memoryCanonical hs

/-! ### The FIFOs (R57) -/

/-- The FIFOs after a move: `rxq` no longer than before, `txq` with at most a byte pushed, or emptied. -/
theorem Move.fifo (h : Move i s t) :
    t.fifo.rxq.length ≤ s.fifo.rxq.length ∧ (PushedIn s t.fifo.txq ∨ t.fifo.txq = []) := by
  have hkept : s.fifo.rxq.length ≤ s.fifo.rxq.length ∧ (PushedIn s s.fifo.txq ∨ s.fifo.txq = []) :=
    ⟨le_rfl, .inl (.inl rfl)⟩
  have hread {q : List Byte} (hq : q.length ≤ s.fifo.rxq.length) :
      q.length ≤ s.fifo.rxq.length ∧ (PushedIn s s.fifo.txq ∨ s.fifo.txq = []) := ⟨hq, .inl (.inl rfl)⟩
  cases h
  case dispatched hf =>
    rcases hf with rfl | rfl
    · exact hkept
    · exact ⟨Nat.zero_le _, .inr rfl⟩
  case flush | resetEnds | resetRecovers => exact ⟨Nat.zero_le _, .inr rfl⟩
  case sends hq => exact ⟨le_rfl, .inl hq⟩
  case sent | runRecovers | sentLast | sendFails => exact ⟨le_rfl, .inr rfl⟩
  case reads hr _ | readEnds hr _ | readFails hr => exact hread hr.queue
  case highByte hu | sized hu | badType hu =>
    obtain ⟨-, -, hr, -⟩ := hu
    exact hread hr.queue
  case headerEnds hu | oversize hu | payload hu | threshold hu | announces hu => exact hread hu.leaves.2
  case counts hr _ => rw [account_eq]; exact hread hr.queue
  all_goals exact hkept

/-- A push finds room. -/
theorem PushedIn.length_le {q : List Byte} (h : PushedIn s q) (hs : s.fifo.txq.length ≤ s.cfg.txFifoDepth) :
    q.length ≤ s.cfg.txFifoDepth := by
  rcases h with rfl | ⟨hroom, b, rfl⟩
  · exact hs
  · simpa using hroom

theorem fifosBounded_beforeEngine (hs : fifosBounded s) : fifosBounded (beforeEngine s) := by
  obtain ⟨hrx, htx⟩ := hs
  obtain ⟨u, hu, hcarried, -, htxq⟩ := beforeEngine_carried s
  have hcfg : (beforeEngine s).cfg = s.cfg := by
    rcases hu with rfl | ⟨-, w, rfl⟩ <;> exact hcarried.cfg
  refine ⟨?_, by rw [htxq, hcfg]; exact htx⟩
  have hphase2 : (beforeEngine s).cfg = (phase1 (nextInput s).bus (beginStep s)).cfg := (phase2_carried _ _).cfg
  have hlen : (phase1 (nextInput s).bus (beginStep s)).fifo = s.fifo := by
    rcases phase1_phase (nextInput s).bus (beginStep s) with ⟨-, w, h⟩ | h
    · rw [h]
      rfl
    · rw [h.fifo]
      rfl
  rw [hphase2]
  refine phase2_rxq_length _ _ ?_
  rw [hlen, ← hphase2, hcfg]
  exact hrx

theorem EngineStep.fifosBounded (h : EngineStep s t) (hs : fifosBounded s) : fifosBounded t := by
  cases h with
  | idle => exact hs
  | refuses => exact hs
  | runs _ i _ h =>
    have hmove := exec_move h
    obtain ⟨hrx, htx⟩ := hmove.fifo
    unfold Machine.fifosBounded
    rw [hmove.cfg]
    refine ⟨hrx.trans hs.1, ?_⟩
    rcases htx with hpushed | hempty
    · exact hpushed.length_le hs.2
    · rw [hempty]
      exact Nat.zero_le _

theorem fifosBounded_afterEngine (n : Inputs) (hs : fifosBounded s) : fifosBounded (afterEngine n s) := by
  obtain ⟨hrx, -, htx⟩ := phase4_fifo s
  unfold fifosBounded
  rw [(afterEngine_carried n s).cfg]
  refine ⟨(congrArg List.length hrx).trans_le hs.1, ?_⟩
  have hle : (phase4 s).fifo.txq.length ≤ s.fifo.txq.length := by
    rcases htx with h | ⟨b, h⟩
    · rw [h]
    · rw [h]
      exact Nat.le_succ _
  exact hle.trans hs.2

/-! ### The threshold (R34) -/

/-- A quarter of 16 bits is at most 16383. -/
theorem quarter_le (v : BitVec 16) : (v / 4).toNat ≤ 16383 := by
  have hv : v.toNat < 65536 := v.isLt
  have hfour : (4 : BitVec 16).toNat = 4 := rfl
  rw [BitVec.toNat_udiv, hfour]
  omega

/-- `rbyte` is kept, cleared, or becomes a quarter. -/
theorem Move.thresholdBounded (h : Move i s t) (hs : thresholdBounded s) : thresholdBounded t := by
  cases h
  case countersCleared => exact Nat.zero_le _
  case threshold => exact quarter_le _
  case announces => exact quarter_le _
  case counts => rw [account_eq]; exact hs
  all_goals exact hs

theorem Carried.thresholdBounded (h : Carried s t) (hs : thresholdBounded s) : thresholdBounded t := by
  unfold Machine.thresholdBounded
  rw [h.session]
  exact hs

theorem EngineStep.thresholdBounded (h : EngineStep s t) (hs : thresholdBounded s) : thresholdBounded t := by
  cases h with
  | idle => exact hs
  | refuses => exact hs
  | runs _ i _ h => exact (exec_move h).thresholdBounded hs

/-! ### The hidden packet (R265) -/

theorem Carried.packetHidden (h : Carried s t) (hs : packetHidden s) : packetHidden t := by
  unfold Machine.packetHidden
  rw [h.engine, h.cmdLast, h.pktValid]
  exact hs

/-- A command in its dispatch step, or with the packet hidden, leaves it hidden. -/
theorem EngineStep.packetHidden (h : EngineStep s t) (hs : s.engine.eng = .decode ∨ packetHidden s) :
    packetHidden t := by
  cases h with
  | idle he => exact fun hne => absurd he hne
  | refuses => exact fun hne => absurd rfl hne
  | runs he i hw h =>
    intro hbusy hcmd
    have hi : i = .readPacket := by
      rw [(exec_move h).cmdLast, hw] at hcmd
      exact Except.ok.inj hcmd
    subst hi
    rcases hs with hdecode | hs
    · rw [exec_readPacket_of_decode s hdecode] at h
      cases h
      rfl
    · rcases (exec_move h).pktValid with hkept | hcleared | ⟨-, -, -, hend⟩
      · exact hkept.trans (hs he hw)
      · exact hcleared
      · exact absurd (congrArg Engine.eng hend) hbusy

end

/-! ### The statements -/

/-- Settles O55: a byte stored inside its memory, or the image cleared, keeps the form. -/
theorem stepKeepsMemoryCanonical : Obligations.StepKeepsMemoryCanonical := by
  intro s t hs h
  rcases step_cases h with rfl | ⟨u, hu, rfl⟩
  · exact reset_mem_wf s.cfg
  · refine memoryCanonical_of_wroteIn (hu.memoryCanonical (memoryCanonical_beforeEngine hs))
      (afterEngine_carried _ u).cfg (.inl (afterEngine_mem _ u))

/-- Settles O56: a byte is pushed only where there is room. -/
theorem stepKeepsFifosBounded : Obligations.StepKeepsFifosBounded := by
  intro s t hs h
  rcases step_cases h with rfl | ⟨u, hu, rfl⟩
  · exact ⟨Nat.zero_le _, Nat.zero_le _⟩
  · exact fifosBounded_afterEngine _ (hu.fifosBounded (fifosBounded_beforeEngine hs))

/-- Settles O57: every threshold is a quarter of 16 bits; READ_PACKET hides the packet at dispatch, and is over when
it shows one. -/
theorem stepKeepsThresholdAndHiding : Obligations.StepKeepsThresholdAndHiding := by
  refine ⟨fun s t hs h => ?_, fun s t hs h => ?_⟩
  · rcases step_cases h with rfl | ⟨v, hv, rfl⟩
    · exact Nat.zero_le _
    · obtain ⟨u, hu, hcarried, -⟩ := beforeEngine_carried s
      have hbefore : thresholdBounded u := by
        rcases hu with rfl | ⟨-, w, rfl⟩ <;> exact hs
      exact (afterEngine_carried _ v).thresholdBounded (hv.thresholdBounded (hcarried.thresholdBounded hbefore))
  · rcases step_cases h with rfl | ⟨v, hv, rfl⟩
    · exact fun hne => absurd rfl hne
    · obtain ⟨u, hu, hcarried, -⟩ := beforeEngine_carried s
      refine (afterEngine_carried _ v).packetHidden (hv.packetHidden ?_)
      rcases hu with rfl | ⟨-, w, rfl⟩
      · exact .inr (hcarried.packetHidden hs)
      · exact .inl (congrArg Engine.eng hcarried.engine)

end Sys2Proof.Machine

/-! PROOFS. The engine register (10_state.md, R36, R37, R202): what P3 starts from, that every move of the command in
progress keeps the register consistent, and that a consistent engine always answers. -/

namespace Sys2Proof.Machine

/-- What P3 starts from: a consistent engine, or a command just issued to an idle one (R67). -/
def EngineReady (s : State) : Prop :=
  EngineConsistent s ∨ s.engine = { eng := .decode, ctx := .cmd, fs := .idle } ∧ s.status.busy = true

section
variable {i : Instr} {s t : State}

/-! ### Building a consistent engine -/

/-- A consistent engine stays so while its registers do. -/
theorem EngineConsistent.congr (h : EngineConsistent s) (heng : t.engine = s.engine)
    (hbusy : t.status.busy = s.status.busy) (hcmd : t.status.cmdLast = s.status.cmdLast)
    (hmode : t.latched.rmode = s.latched.rmode) : EngineConsistent t where
  idleIff := by rw [heng, hbusy]; exact h.idleIff
  atRest := by rw [heng]; exact h.atRest
  owned := by rw [heng, hcmd]; exact h.owned
  framing := by rw [heng]; exact h.framing
  notFraming := by rw [heng]; exact h.notFraming
  recovering := by rw [heng]; exact h.recovering
  recoveryMode := by rw [heng, hmode]; exact h.recoveryMode

/-- The end of a command. -/
theorem engineConsistent_of_idle (heng : t.engine = idleEngine) (hbusy : t.status.busy = false) :
    EngineConsistent t where
  idleIff := by simp [heng, hbusy, idleEngine]
  atRest := fun _ => heng
  owned := fun h => absurd (congrArg Engine.eng heng) h
  framing := by simp [heng, idleEngine]
  notFraming := by simp [heng, idleEngine]
  recovering := by simp [heng, idleEngine]
  recoveryMode := by simp [heng, idleEngine]

/-- A command in a state of its own outside the framer, for itself or in recovery. -/
theorem engineConsistent_of_own {e : Eng} {c : Ctx} {f : Framer} (heng : t.engine = { eng := e, ctx := c, fs := f })
    (hne : e ≠ .idle) (hpk : e ≠ .pk) (hbusy : t.status.busy = true)
    (hw : decodeCommand t.status.cmdLast = .ok i) (hown : ownState i c e = true) (hcmd : c = .cmd → f = .idle)
    (hrec : c = .recovery → f = .doReset ∧ t.latched.rmode = 0) : EngineConsistent t where
  idleIff := by simp [heng, hne, hbusy]
  atRest := by simp [heng, hne]
  owned := fun _ => ⟨i, hw, by rw [heng]; exact hown⟩
  framing := by simp [heng, hpk]
  notFraming := by simpa [heng] using fun _ => hcmd
  recovering := by simpa [heng] using fun hc => (hrec hc).1
  recoveryMode := by simpa [heng] using fun hc => (hrec hc).2

/-- READ_PACKET in the framer. -/
theorem engineConsistent_of_framer {f : Framer} (heng : t.engine = { eng := .pk, ctx := .cmd, fs := f })
    (hf : f ≠ .idle) (hbusy : t.status.busy = true) (hw : decodeCommand t.status.cmdLast = .ok .readPacket) :
    EngineConsistent t where
  idleIff := by simp [heng, hbusy]
  atRest := by simp [heng]
  owned := fun _ => ⟨.readPacket, hw, by rw [heng]; rfl⟩
  framing := by simp [heng, hf]
  notFraming := by simp [heng]
  recovering := by simp [heng]
  recoveryMode := by simp [heng]

/-! ### A consistent engine in use -/

/-- A command in progress is busy, and owns the engine's state. -/
theorem EngineConsistent.inProgress (h : EngineConsistent s) (hw : decodeCommand s.status.cmdLast = .ok i)
    (he : s.engine.eng ≠ .idle) : s.status.busy = true ∧ ownState i s.engine.ctx s.engine.eng = true := by
  obtain ⟨j, hj, hown⟩ := h.owned he
  have hji : j = i := Except.ok.inj (hj.symm.trans hw)
  refine ⟨?_, hji ▸ hown⟩
  rw [← Bool.not_eq_false]
  exact fun hbusy => he (h.idleIff.mpr hbusy)

/-- Only READ_PACKET has states in recovery. -/
theorem ownState_recovery {e : Eng} (h : ownState i .recovery e = true) :
    i = .readPacket ∧ isRecoveryState e = true := by
  cases i
  case readPacket => exact ⟨rfl, h⟩
  all_goals cases h

/-- Only READ_PACKET runs the framer, and on its own behalf. -/
theorem ownState_pk {c : Ctx} (h : ownState i c .pk = true) : i = .readPacket ∧ c = .cmd := by
  cases i <;> cases c <;> cases h
  exact ⟨rfl, rfl⟩

/-- `REC_CHECK` and `REC_WAIT` are READ_PACKET's, in recovery. -/
theorem ownState_recoveryOnly {c : Ctx} {e : Eng} (he : e ∈ [Eng.recCheck, .recWait]) (h : ownState i c e = true) :
    i = .readPacket ∧ c = .recovery := by
  cases c with
  | recovery => exact ⟨(ownState_recovery h).1, rfl⟩
  | cmd =>
    simp only [List.mem_cons, List.not_mem_nil, or_false] at he
    rcases he with rfl | rfl <;> cases i <;> cases h

/-- The account of a sub-read stays in the framer. -/
theorem account_fs_ne_idle (n : Nat) (hf : s.engine.fs ≠ .idle) : (account n s).engine.fs ≠ .idle := by
  rcases account_cases n s with ⟨-, h⟩ | ⟨-, -, h⟩ | ⟨-, -, h⟩ <;> rw [h]
  · simp only
    split_ifs
    · simp
    · simp
    · exact hf
  · simp
  · exact hf

/-- A command in the framer is READ_PACKET, on its own behalf. -/
theorem EngineConsistent.framer (h : EngineConsistent s) (hw : decodeCommand s.status.cmdLast = .ok i)
    (he : s.engine.eng = .pk) :
    i = .readPacket ∧ s.engine = { eng := .pk, ctx := .cmd, fs := s.engine.fs } ∧ s.status.busy = true := by
  obtain ⟨hbusy, hown⟩ := h.inProgress hw (by rw [he]; decide)
  rw [he] at hown
  obtain ⟨hi, hc⟩ := ownState_pk hown
  exact ⟨hi, by rw [← he, ← hc], hbusy⟩

/-- The steps a command makes between its own states outside the framer, for itself or in recovery. -/
def innerEdges : List (Eng × Eng) :=
  [(.rsMode, .rsAssert), (.rsMode, .rsFinish), (.rsAssert, .rsHold1), (.rsHold1, .rsDeassert), (.rsDeassert, .rsHold2),
    (.rsHold2, .rsFinish), (.ldHdr, .ldPay), (.ldPay, .ldFinish), (.rnClear, .rnHdr), (.vpSend, .vpRead)]

/-- A command that owns a state owns the next. -/
theorem ownState_of_innerEdge {c : Ctx} : ∀ p ∈ innerEdges, ownState i c p.1 = true → ownState i c p.2 = true := by
  cases i <;> cases c <;> simp only [ownState] <;> decide

/-- The steps recovery makes besides (R255). -/
def recoveryEdges : List (Eng × Eng) :=
  [(.rsFinish, .recCheck), (.recCheck, .ldHdr), (.ldFinish, .rnClear), (.rnHdr, .recWait)]

theorem ownState_of_recoveryEdge : ∀ p ∈ recoveryEdges, ownState i .recovery p.1 = true →
    ownState i .recovery p.2 = true := by
  intro p hp hown
  obtain ⟨rfl, hrec⟩ := ownState_recovery hown
  have hedges : ∀ p ∈ recoveryEdges, isRecoveryState p.1 = true → isRecoveryState p.2 = true := by decide
  exact hedges p hp hrec

/-- A step from one of the command's states to another. -/
theorem EngineConsistent.advance (h : EngineConsistent s) {e e' : Eng} (he : s.engine.eng = e)
    (hw : decodeCommand s.status.cmdLast = .ok i)
    (hedge : (e, e') ∈ innerEdges ∨ s.engine.ctx = .recovery ∧ (e, e') ∈ recoveryEdges)
    (heng : t.engine = { s.engine with eng := e' }) (hbusy : t.status.busy = s.status.busy)
    (hcmd : t.status.cmdLast = s.status.cmdLast) (hmode : t.latched.rmode = s.latched.rmode) :
    EngineConsistent t := by
  have hends : ∀ p ∈ innerEdges ++ recoveryEdges, p.1 ≠ .idle ∧ p.1 ≠ .pk ∧ p.2 ≠ .idle ∧ p.2 ≠ .pk := by decide
  obtain ⟨hne, hpk, hne', hpk'⟩ := hends (e, e') (List.mem_append.mpr (hedge.imp_right And.right))
  obtain ⟨hb, hown⟩ := h.inProgress hw (he ▸ hne)
  have hown' : ownState i s.engine.ctx e' = true := by
    rw [he] at hown
    rcases hedge with hinner | ⟨hc, hrec⟩
    · exact ownState_of_innerEdge _ hinner hown
    · rw [hc] at hown ⊢
      exact ownState_of_recoveryEdge _ hrec hown
  exact engineConsistent_of_own heng hne' hpk' (hbusy.trans hb) (hcmd ▸ hw) hown' (h.notFraming (he ▸ hpk))
    fun hc => ⟨h.recovering hc, hmode.trans (h.recoveryMode hc)⟩

/-- A step of the framer that stays in the framer. -/
theorem EngineConsistent.framed (h : EngineConsistent s) (hw : decodeCommand s.status.cmdLast = .ok i)
    (he : s.engine.eng = .pk) {g : Framer} (heng : t.engine = { s.engine with fs := g }) (hg : g ≠ .idle)
    (hbusy : t.status.busy = s.status.busy) (hcmd : t.status.cmdLast = s.status.cmdLast) : EngineConsistent t := by
  obtain ⟨rfl, hpk, hb⟩ := h.framer hw he
  rw [hpk] at heng
  exact engineConsistent_of_framer heng hg (hbusy.trans hb) (hcmd ▸ hw)

/-! ### What P3 starts from -/

/-- A host command is no code of the channel. -/
theorem not_isWireCode_of_decodeCommand {w : Word} (h : decodeCommand w = .ok i) : isWireCode i = false := by
  have hcode : encode i = .cmd w := (decodeCommand_ok h).2
  cases i
  case versionQuery | loadHdr | runHdr | pktEod | pktPrg | pktChr | pktWram | pktReset | rebootAnnounce => cases hcode
  all_goals rfl

/-- A host command runs in an engine state. -/
theorem RunsIn.mem {es : List Eng} (h : RunsIn i s es) (hhost : isWireCode i = false) : s.engine.eng ∈ es :=
  h.resolve_left (by rw [hhost]; decide)

/-- A host command takes its codes through the framer. -/
theorem TookCode.tookByte {f : Framer} {r : ReadRegs} {q : List Byte} {m : Memories} (h : TookCode i f s r q m)
    (hhost : isWireCode i = false) : TookByte f s r q m :=
  h.resolve_left fun hwire => by rw [hhost] at hwire; exact absurd hwire.1 (by decide)

/-- After the dispatch step the engine is consistent. -/
theorem EngineReady.consistent (h : EngineReady s) (he : s.engine.eng ≠ .decode) : EngineConsistent s :=
  h.resolve_right fun hissued => he (by rw [hissued.1])

/-- A dispatch step is made just after the issue. -/
theorem EngineReady.issued (h : EngineReady s) (he : s.engine.eng ≠ .idle)
    (hw : decodeCommand s.status.cmdLast = .ok i) (hd : Dispatches i s) :
    s.engine = { eng := .decode, ctx := .cmd, fs := .idle } ∧ s.status.busy = true :=
  h.resolve_left fun hs => by
    obtain ⟨-, hown⟩ := hs.inProgress hw he
    rw [hd] at hown
    cases hown

theorem EngineReady.carried (h : EngineReady s) (hc : Carried s t) : EngineReady t := by
  refine h.imp (fun hs => hs.congr hc.engine hc.busy hc.cmdLast (by rw [hc.latched])) fun hs => ?_
  rw [hc.engine, hc.busy]
  exact hs

/-- P1 and P2 leave the engine ready. -/
theorem EngineConsistent.ready (h : EngineConsistent s) : EngineReady (beforeEngine s) := by
  obtain ⟨u, hu, hcarried, -⟩ := beforeEngine_carried s
  refine EngineReady.carried ?_ hcarried
  rcases hu with rfl | ⟨hidle, w, rfl⟩
  · exact .inl h
  · have hrest : s.engine = idleEngine := h.atRest (h.idleIff.mpr hidle)
    refine .inr ⟨?_, rfl⟩
    simp only [issue, hrest, idleEngine]

/-! ### Every move keeps the engine consistent -/

theorem Move.engineConsistent (h : Move i s t) (hs : EngineReady s) (hne : s.engine.eng ≠ .idle)
    (hw : decodeCommand s.status.cmdLast = .ok i) : EngineConsistent t := by
  have hhost := not_isWireCode_of_decodeCommand hw
  have hin {e : Eng} (he : s.engine.eng = e) (hdec : e ≠ .decode) : EngineConsistent s :=
    hs.consistent (he ▸ hdec)
  have hon {es : List Eng} (he : s.engine.eng ∈ es) (hdec : Eng.decode ∉ es) : EngineConsistent s :=
    hs.consistent fun h => hdec (h ▸ he)
  have hframe {f : Framer} {r : ReadRegs} {q : List Byte} {m : Memories} {g : Framer} (hu : TookByte f s r q m)
      (heng : t.engine = { s.engine with fs := g }) (hg : g ≠ .idle) (hbusy : t.status.busy = s.status.busy)
      (hcmd : t.status.cmdLast = s.status.cmdLast) : EngineConsistent t :=
    (hin hu.1 (by decide)).framed hw hu.1 heng hg hbusy hcmd
  have hinner {e : Eng} (he : (s.engine.eng, e) ∈ innerEdges) (heng : t.engine = { s.engine with eng := e })
      (hbusy : t.status.busy = s.status.busy) (hcmd : t.status.cmdLast = s.status.cmdLast)
      (hmode : t.latched.rmode = s.latched.rmode) : EngineConsistent t := by
    have hdec : s.engine.eng ≠ .decode := fun h => by simp [h, innerEdges] at he
    exact (hs.consistent hdec).advance rfl hw (.inl he) heng hbusy hcmd hmode
  cases h
  case dispatched e l f hd hown hi hf =>
    obtain ⟨heng, hbusy⟩ := hs.issued hne hw hd
    have hends : e ≠ .idle ∧ e ≠ .pk := by
      refine ⟨?_, ?_⟩ <;> rintro rfl
      · cases i <;> cases hown
      · exact hi (ownState_pk hown).1
    refine engineConsistent_of_own (c := .cmd) (f := .idle) ?_ hends.1 hends.2 hbusy hw hown (fun _ => rfl) (by simp)
    simp [heng]
  case packetDispatched hi hd =>
    obtain ⟨heng, hbusy⟩ := hs.issued hne hw hd
    refine engineConsistent_of_framer (f := .start) ?_ (by decide) hbusy (hi ▸ hw)
    simp [readPacketDecode, heng]
  case modeSet he =>
    refine (hin he (by decide)).advance he hw (.inl ?_) rfl rfl rfl rfl
    split_ifs <;> decide
  case asserted he => exact (hin he (by decide)).advance he hw (.inl (by decide)) rfl rfl rfl rfl
  case deasserted he => exact (hin he (by decide)).advance he hw (.inl (by decide)) rfl rfl rfl rfl
  case countersCleared he => exact (hin he (by decide)).advance he hw (.inl (by decide)) rfl rfl rfl rfl
  case resetRecovers he hc => exact (hin he (by decide)).advance he hw (.inr ⟨hc, by decide⟩) rfl rfl rfl rfl
  case loadRecovers he hc => exact (hin he (by decide)).advance he hw (.inr ⟨hc, by decide⟩) rfl rfl rfl rfl
  case reloads he =>
    have hc := hin he (by decide)
    obtain ⟨-, hown⟩ := hc.inProgress hw hne
    exact hc.advance he hw (.inr ⟨(ownState_recoveryOnly (by rw [he]; decide) hown).2, by decide⟩) rfl rfl rfl rfl
  case runRecovers w hact he hc =>
    have he := List.mem_singleton.mp (he.mem hhost)
    exact (hin he (by decide)).advance he hw (.inr ⟨hc, by decide⟩) rfl rfl rfl rfl
  case held d e he =>
    have hsub : ∀ p ∈ [(Eng.rsHold1, Eng.rsDeassert), (.rsHold2, .rsFinish)], p ∈ innerEdges := by decide
    exact hinner (hsub _ he) rfl rfl rfl rfl
  case sent w e hact he =>
    have hsub : ∀ p ∈ [(Eng.ldHdr, Eng.ldPay), (.ldPay, .ldFinish), (.vpSend, .vpRead)], p ∈ innerEdges := by decide
    exact hinner (hsub _ (he.resolve_left (by rw [hhost]; decide))) rfl rfl rfl rfl
  case waits d he => exact (hon he (by decide)).congr rfl rfl rfl rfl
  case sends w q he hact hq => exact (hon (he.mem hhost) (by decide)).congr rfl rfl rfl rfl
  case reads r q m he hr hgot => exact (hon he (by decide)).congr rfl rfl rfl rfl
  case resumes d he =>
    obtain ⟨hbusy, hown⟩ := (hin he (by decide)).inProgress hw hne
    obtain ⟨hi, -⟩ := ownState_recoveryOnly (by rw [he]; decide) hown
    exact engineConsistent_of_framer (f := .readRebootByteHigh) rfl (by decide) hbusy (hi ▸ hw)
  case framerStarts he hf => exact (hin he (by decide)).framed hw he (g := .readSizeHigh) rfl (by decide) rfl rfl
  case highByte f g b r q m hfg hu =>
    refine hframe hu (g := g) rfl ?_ rfl rfl
    rintro rfl
    simp at hfg
  case sized n r q m hu => exact hframe hu (g := .readFormat) rfl (by decide) rfl rfl
  case headerEnds a b ty r q m hu => exact hframe (hu.tookByte hhost) (g := .endState) rfl (by decide) rfl rfl
  case payload a b ty r q m hu => exact hframe (hu.tookByte hhost) (g := .readData) rfl (by decide) rfl rfl
  case threshold a b ty r q m hu => exact hframe (hu.tookByte hhost) (g := .endState) rfl (by decide) rfl rfl
  case announces a b r q m hu => exact hframe (hu.tookByte hhost) (g := .readData) rfl (by decide) rfl rfl
  case payloadEnds he hf hact => exact (hin he (by decide)).framed hw he (g := .endState) rfl (by decide) rfl rfl
  case chunkCounted he hf => exact (hin he (by decide)).framed hw he (g := .readData) rfl (by decide) rfl rfl
  case counts r q m he hf hr hact =>
    have hg := account_fs_ne_idle r.got.toNat (s := afterRead s r q m) (by simp [afterRead, hf])
    rw [account_eq]
    exact (hin he (by decide)).framed hw he rfl hg rfl rfl
  case recovers he hf =>
    obtain ⟨hi, -, hbusy⟩ := (hin he (by decide)).framer hw he
    refine engineConsistent_of_own (e := .rsMode) (c := .recovery) (f := .doReset) ?_ (by decide) (by decide) hbusy hw
      (by rw [hi]; decide) (by simp) fun _ => ⟨rfl, rfl⟩
    simp [hf]
  all_goals exact engineConsistent_of_idle rfl rfl

theorem EngineStep.engineConsistent (h : EngineStep s t) (hs : EngineReady s) : EngineConsistent t := by
  cases h with
  | idle he => exact hs.consistent (by rw [he]; decide)
  | refuses => exact engineConsistent_of_idle rfl rfl
  | runs he i hw h => exact (exec_move h).engineConsistent hs he hw

theorem EngineConsistent.carried (h : EngineConsistent s) (hc : Carried s t) : EngineConsistent t :=
  h.congr hc.engine hc.busy hc.cmdLast (by rw [hc.latched])

/-- The reset state is idle. -/
theorem engineConsistent_reset (p : Params) : EngineConsistent (State.resetWith p) := engineConsistent_of_idle rfl rfl

theorem engineConsistent_resetStep (n : Inputs) (s : State) : EngineConsistent (resetStep n s) :=
  engineConsistent_of_idle rfl rfl

/-- Every step keeps the engine consistent. -/
theorem engineConsistent_step (hs : EngineConsistent s) (h : step s = .next t) : EngineConsistent t := by
  rcases step_cases h with rfl | ⟨u, hu, rfl⟩
  · exact engineConsistent_resetStep _ s
  · exact (hu.engineConsistent hs.ready).carried (afterEngine_carried _ u)

/-! ### A ready engine answers -/

/-- `exec` answers but in the framer's `Idle`. -/
theorem exec_answers (h : s.engine.eng = .pk → s.engine.fs ≠ .idle) : ∃ t, exec i s = .next t := by
  cases i
  case readPacket =>
    have hexec : exec .readPacket s = execReadPacket s := rfl
    rw [hexec]
    unfold execReadPacket
    split
    next hpk =>
      unfold framerStep
      split
      next hf => exact absurd hf (h hpk)
      all_goals exact ⟨_, rfl⟩
    all_goals exact ⟨_, rfl⟩
  all_goals exact ⟨_, rfl⟩

theorem phase3_answers (hs : EngineReady s) : ∃ t, phase3 s = .next t := by
  unfold phase3
  split_ifs
  · exact ⟨s, rfl⟩
  · split
    · refine exec_answers fun hpk => (hs.consistent ?_).framing hpk
      rw [hpk]
      decide
    · exact ⟨_, rfl⟩

end

/-- Settles O58: the engine is ready after P1 and P2, a ready engine answers, and every move keeps it consistent. -/
theorem consistentEngineNeverStops : Obligations.ConsistentEngineNeverStops := by
  intro s hs
  have hanswers : ∃ t, step s = .next t := by
    cases hrst : (nextInput s).rst
    · obtain ⟨t, ht⟩ := phase3_answers hs.ready
      rw [step_of_not_rst hrst, ht]
      exact ⟨_, rfl⟩
    · exact ⟨_, step_of_rst hrst⟩
  obtain ⟨t, ht⟩ := hanswers
  exact ⟨t, ht, engineConsistent_step hs ht⟩

end Sys2Proof.Machine

/-! PROOFS. The write in progress and `txq` (10_state.md section 9, R57, R147): only a state that sends holds a write, and
`txq` is empty without one. -/

namespace Sys2Proof.Machine

/-- What `WriteConsistent` says besides the engine register. -/
structure WriteRegular (s : State) : Prop where
  active : s.wr.act = true → isSendState s.engine.eng = true
  queued : s.wr.act = false → s.fifo.txq = []

theorem writeConsistent_iff (s : State) : WriteConsistent s ↔ EngineConsistent s ∧ WriteRegular s :=
  ⟨fun h => ⟨h.engine, h.active, h.queued⟩, fun ⟨he, ha, hq⟩ => ⟨he, ha, hq⟩⟩

section
variable {i : Instr} {s t : State}

/-- No write is in progress in a state that does not send. -/
theorem WriteRegular.act_eq_false (h : WriteRegular s) (hsend : isSendState s.engine.eng = false) :
    s.wr.act = false := by
  rw [← Bool.not_eq_true]
  exact fun hact => absurd ((h.active hact).symm.trans hsend) (by decide)

/-- With no write and an empty `txq` nothing is to be said of the engine. -/
theorem writeRegular_of_empty (hact : t.wr.act = false) (hq : t.fifo.txq = []) : WriteRegular t :=
  ⟨fun h => absurd (h.symm.trans hact) (by decide), fun _ => hq⟩

/-- What a move does to the write and to `txq`: a write goes on; or it is over with `txq` empty; or the state does not
send, no write starts, and `txq` is kept or emptied. -/
theorem Move.write (h : Move i s t) :
    (RunsIn i s [.ldHdr, .ldPay, .rnHdr, .vpSend, .rwWrite] ∧ t.wr.act = true ∧ t.engine = s.engine) ∨
      (t.wr.act = false ∧ t.fifo.txq = []) ∨
      (isWireCode i = true ∨ isSendState s.engine.eng = false ∨ Dispatches i s) ∧
        (t.wr.act = s.wr.act ∨ t.wr.act = false) ∧ (t.fifo.txq = s.fifo.txq ∨ t.fifo.txq = []) := by
  have hin {e : Eng} (he : s.engine.eng = e) (hsend : isSendState e = false) :
      isWireCode i = true ∨ isSendState s.engine.eng = false ∨ Dispatches i s := .inr (.inl (he ▸ hsend))
  have hon {es : List Eng} (he : s.engine.eng ∈ es) (hsend : ∀ e ∈ es, isSendState e = false) :
      isWireCode i = true ∨ isSendState s.engine.eng = false ∨ Dispatches i s := .inr (.inl (hsend _ he))
  have hcode {f : Framer} {r : ReadRegs} {q : List Byte} {m : Memories} (hu : TookCode i f s r q m) :
      isWireCode i = true ∨ isSendState s.engine.eng = false ∨ Dispatches i s :=
    hu.imp And.left fun hu => .inl (by rw [hu.1]; rfl)
  cases h
  case sends w q he hact hq => exact .inl ⟨he, hact, rfl⟩
  case sent w e hact he => exact .inr (.inl ⟨hact, rfl⟩)
  case runRecovers w hact he hc => exact .inr (.inl ⟨hact, rfl⟩)
  case sentLast w x hact he => exact .inr (.inl ⟨hact, rfl⟩)
  case sendFails => exact .inr (.inl ⟨rfl, rfl⟩)
  case nop hi hd | imgClear hi hd | packetDispatched hi hd => exact .inr (.inr ⟨.inr (.inr hd), .inl rfl, .inl rfl⟩)
  case flush hi hd => exact .inr (.inr ⟨.inr (.inr hd), .inl rfl, .inr rfl⟩)
  case refused hd => exact .inr (.inr ⟨.inr (.inr hd), .inr rfl, .inl rfl⟩)
  case dispatched hd hown hi hf =>
    refine .inr (.inr ⟨.inr (.inr hd), .inl rfl, ?_⟩)
    rcases hf with rfl | rfl
    · exact .inl rfl
    · exact .inr rfl
  case modeSet he | asserted he | deasserted he | resumes he | countersCleared he | reloads he =>
    exact .inr (.inr ⟨hin he rfl, .inl rfl, .inl rfl⟩)
  case loadEnds he hc | loadRecovers he hc | framerStarts he hc | recovers he hc | chunkCounted he hc =>
    exact .inr (.inr ⟨hin he rfl, .inl rfl, .inl rfl⟩)
  case resetEnds he hc | resetRecovers he hc => exact .inr (.inr ⟨hin he rfl, .inl rfl, .inr rfl⟩)
  case exposes hi he hf | payloadEnds he hf hi => exact .inr (.inr ⟨hin he rfl, .inl rfl, .inl rfl⟩)
  case counts he hf hr hact => rw [account_eq]; exact .inr (.inr ⟨hin he rfl, .inl rfl, .inl rfl⟩)
  case reloadFails he => exact .inr (.inr ⟨hin he rfl, .inr rfl, .inl rfl⟩)
  case readFails he hr => exact .inr (.inr ⟨hin he rfl, .inr rfl, .inl rfl⟩)
  case waits he => exact .inr (.inr ⟨hon he (by decide), .inl rfl, .inl rfl⟩)
  case held d e he =>
    have he : s.engine.eng ∈ [Eng.rsHold1, .rsHold2] := List.mem_map_of_mem (f := Prod.fst) he
    exact .inr (.inr ⟨hon he (by decide), .inl rfl, .inl rfl⟩)
  case reads he hr hgot | readEnds he hr hgot => exact .inr (.inr ⟨hon he (by decide), .inl rfl, .inl rfl⟩)
  case highByte hu | sized hu => exact .inr (.inr ⟨hin hu.1 rfl, .inl rfl, .inl rfl⟩)
  case badType hu => exact .inr (.inr ⟨hin hu.1 rfl, .inr rfl, .inl rfl⟩)
  case headerEnds hu | payload hu | threshold hu | announces hu => exact .inr (.inr ⟨hcode hu, .inl rfl, .inl rfl⟩)
  case oversize hu => exact .inr (.inr ⟨hcode hu, .inr rfl, .inl rfl⟩)

theorem Move.writeRegular (h : Move i s t) (hs : EngineReady s) (hne : s.engine.eng ≠ .idle)
    (hw : decodeCommand s.status.cmdLast = .ok i) (hr : WriteRegular s) : WriteRegular t := by
  have hhost := not_isWireCode_of_decodeCommand hw
  rcases h.write with ⟨he, hact, heng⟩ | ⟨hact, hq⟩ | ⟨hcalm, hact, hq⟩
  · have hsend : ∀ e ∈ [Eng.ldHdr, .ldPay, .rnHdr, .vpSend, .rwWrite], isSendState e = true := by decide
    refine ⟨fun _ => ?_, fun h => absurd (hact.symm.trans h) (by decide)⟩
    rw [heng]
    exact hsend _ (he.mem hhost)
  · exact writeRegular_of_empty hact hq
  · have hsend : isSendState s.engine.eng = false := by
      rcases hcalm with hwire | hsend | hd
      · exact absurd (hwire.symm.trans hhost) (by decide)
      · exact hsend
      · rw [(hs.issued hne hw hd).1]
        rfl
    have hoff := hr.act_eq_false hsend
    exact writeRegular_of_empty (hact.elim (fun h => h.trans hoff) id) (hq.elim (fun h => h.trans (hr.queued hoff)) id)

theorem EngineStep.writeRegular (h : EngineStep s t) (hs : EngineReady s) (hr : WriteRegular s) :
    WriteRegular t := by
  cases h with
  | idle => exact hr
  | refuses he e hw =>
    have hissued := hs.resolve_left fun hc => by
      obtain ⟨j, hj, -⟩ := hc.owned he
      exact absurd (hj.symm.trans hw) (by simp)
    have hoff := hr.act_eq_false (by rw [hissued.1]; rfl)
    exact writeRegular_of_empty rfl (hr.queued hoff)
  | runs he i hw h => exact (exec_move h).writeRegular hs he hw hr

/-- P1 and P2 leave the write and `txq`; a command is issued only with no write in progress. -/
theorem WriteConsistent.writeRegular_beforeEngine (h : WriteConsistent s) : WriteRegular (beforeEngine s) := by
  obtain ⟨u, hu, hcarried, hwr, htxq⟩ := beforeEngine_carried s
  rcases hu with rfl | ⟨hidle, w, rfl⟩
  · exact ⟨by rw [hwr, hcarried.engine]; exact h.active, by rw [hwr, htxq]; exact h.queued⟩
  · have hoff : s.wr.act = false := by
      refine ((writeConsistent_iff s).mp h).2.act_eq_false ?_
      rw [h.engine.idleIff.mpr hidle]
      rfl
    exact writeRegular_of_empty (hwr ▸ hoff) (htxq ▸ h.queued hoff)

/-- P4 takes bytes from `txq` only. -/
theorem WriteRegular.afterEngine (h : WriteRegular s) (n : Inputs) : WriteRegular (afterEngine n s) := by
  obtain ⟨-, hact, htxq⟩ := phase4_fifo s
  have hact : (Machine.afterEngine n s).wr.act = s.wr.act := hact
  refine ⟨by rw [hact, (afterEngine_carried n s).engine]; exact h.active, fun hoff => ?_⟩
  have hempty := h.queued (hact ▸ hoff)
  rcases htxq with hq | ⟨b, hq⟩
  · exact hq.trans hempty
  · exact absurd (hq.symm.trans hempty) (by simp)

end

/-- Settles O59: only a state that sends holds a write, and a write that ends leaves `txq` empty. -/
theorem stepKeepsWritesConsistent : Obligations.StepKeepsWritesConsistent := by
  refine ⟨fun s t hs h => ?_, fun s hs hidle => ?_⟩
  · refine (writeConsistent_iff t).mpr ⟨engineConsistent_step hs.engine h, ?_⟩
    rcases step_cases h with rfl | ⟨u, hu, rfl⟩
    · exact writeRegular_of_empty rfl rfl
    · exact (hu.writeRegular hs.engine.ready hs.writeRegular_beforeEngine).afterEngine _
  · refine hs.queued (((writeConsistent_iff s).mp hs).2.act_eq_false ?_)
    rw [hidle]
    rfl

end Sys2Proof.Machine

/-! PROOFS. The framer registers and the read in progress (10_state.md R38, R57; 44_packet_engine.md R249 to R253, R268):
where the payload stands in each framer state, and that a read in progress has less than its request. -/

namespace Sys2Proof.Machine

/-! ### Where the payload stands -/

/-- What `FramerConsistent` says of the working registers in a framer state. -/
structure Positioned (w : Work) (f : Framer) : Prop where
  sizeIs : w.size = packetSize w.blocks
  inside : w.i.toNat + w.j.toNat ≤ w.size.toNat
  chunk : w.j.toNat < 1024
  fresh : (f = .readSizeHigh ∨ f = .readSizeLow ∨ f = .readFormat) → w.i = 0 ∧ w.j = 0
  boundary : (f = .doReset ∨ f = .readRebootByteHigh ∨ f = .readRebootByteLow) → w.j = 0 ∧ w.i.toNat % 1024 = 0
  wholeChunks : f = .readData → w.i.toNat % 1024 = 0

/-- The framer states in which nothing is read or counted. -/
def restsIn : Framer → Bool
  | .idle | .start | .endState => true
  | _ => false

/-- The framer states that read the header. -/
def readsHeader : Framer → Bool
  | .readSizeHigh | .readSizeLow | .readFormat => true
  | _ => false

/-- The read in progress has less than its request. -/
def ReadRegular (s : State) : Prop := s.rd.act = true → s.rd.got.toNat < readRequest s

theorem framerConsistent_iff (s : State) :
    FramerConsistent s ↔ EngineConsistent s ∧ Positioned s.work s.engine.fs ∧ ReadRegular s :=
  ⟨fun h => ⟨h.engine, ⟨h.sizeIs, h.inside, h.chunk, h.fresh, h.boundary, h.wholeChunks⟩, h.request⟩,
    fun ⟨he, hp, hr⟩ => ⟨he, hp.sizeIs, hp.inside, hp.chunk, hp.fresh, hp.boundary, hp.wholeChunks, hr⟩⟩

section
variable {w : Work} {f g : Framer}

/-- No block is no byte. -/
theorem packetSize_zero : (0 : BitVec 24) = packetSize 0 := by decide

/-- Before a byte is counted every framer state will do. -/
theorem positioned_of_fresh (hsize : w.size = packetSize w.blocks) (hi : w.i = 0) (hj : w.j = 0) :
    Positioned w f where
  sizeIs := hsize
  inside := by simp [hi, hj]
  chunk := by simp [hj]
  fresh := fun _ => ⟨hi, hj⟩
  boundary := fun _ => ⟨hj, by simp [hi]⟩
  wholeChunks := fun _ => by simp [hi]

/-- At a chunk's boundary every framer state after the header will do. -/
theorem positioned_of_boundary (hsize : w.size = packetSize w.blocks) (hin : w.i.toNat ≤ w.size.toNat) (hj : w.j = 0)
    (hi : w.i.toNat % 1024 = 0) (hf : readsHeader f = false) : Positioned w f where
  sizeIs := hsize
  inside := by simpa [hj] using hin
  chunk := by simp [hj]
  fresh := by rintro (rfl | rfl | rfl) <;> cases hf
  boundary := fun _ => ⟨hj, hi⟩
  wholeChunks := fun _ => hi

/-- Outside the states that read, the payload may stand anywhere inside its size. -/
theorem positioned_of_inside (hsize : w.size = packetSize w.blocks) (hin : w.i.toNat + w.j.toNat ≤ w.size.toNat)
    (hj : w.j.toNat < 1024) (hf : restsIn f = true) : Positioned w f where
  sizeIs := hsize
  inside := hin
  chunk := hj
  fresh := by rintro (rfl | rfl | rfl) <;> cases hf
  boundary := by rintro (rfl | rfl | rfl) <;> cases hf
  wholeChunks := by rintro rfl; cases hf

/-- The framer leaves its place. -/
theorem Positioned.leave (h : Positioned w f) (hg : restsIn g = true) : Positioned w g :=
  positioned_of_inside h.sizeIs h.inside h.chunk hg

/-- At the boundary the framer goes on in any state after the header. -/
theorem Positioned.atBoundary (h : Positioned w f)
    (hf : f = .doReset ∨ f = .readRebootByteHigh ∨ f = .readRebootByteLow)
    (hg : readsHeader g = false) : Positioned w g :=
  positioned_of_boundary h.sizeIs ((Nat.le_add_right _ _).trans h.inside) (h.boundary hf).1 (h.boundary hf).2 hg

end

section
variable {i : Instr} {s t : State}

/-- A sub-read of at most what is left of its chunk, counted (R252, R253). -/
theorem positioned_account {n : Nat} (h : Positioned s.work s.engine.fs) (hf : s.engine.fs = .readData)
    (hn : n ≤ subReadLength s) : Positioned (account n s).work (account n s).engine.fs := by
  have hin := h.inside
  have hchunk := h.chunk
  have hwhole := h.wholeChunks hf
  have hsize : s.work.size.toNat < 2 ^ 24 := s.work.size.isLt
  unfold subReadLength at hn
  rcases account_cases n s with ⟨hfull, heq⟩ | ⟨-, hend, heq⟩ | ⟨hpart, -, heq⟩ <;> rw [heq]
  · have hi : (s.work.i + 1024).toNat = s.work.i.toNat + 1024 := by
      rw [BitVec.toNat_add]
      simp
      omega
    have hfit : s.work.i.toNat + 1024 ≤ s.work.size.toNat := by omega
    refine positioned_of_boundary h.sizeIs (hi.trans_le hfit) rfl ?_ ?_
    · rw [hi]
      omega
    · rw [hf]
      split_ifs <;> rfl
  · have hi : (s.work.i + BitVec.ofNat 24 (s.work.j.toNat + n)).toNat = s.work.size.toNat := by
      rw [BitVec.toNat_add, BitVec.toNat_ofNat]
      omega
    exact positioned_of_inside h.sizeIs (by simp [hi]) (by simp) rfl
  · have hj : (BitVec.ofNat 11 (s.work.j.toNat + n)).toNat = s.work.j.toNat + n := by
      rw [BitVec.toNat_ofNat]
      omega
    have hfit : s.work.i.toNat + (s.work.j.toNat + n) ≤ s.work.size.toNat := by omega
    have hpart : s.work.j.toNat + n < 1024 := by omega
    refine ⟨h.sizeIs, ?_, hj.trans_lt hpart, by simp [hf], by simp [hf], fun _ => hwhole⟩
    rw [hj]
    exact hfit

theorem Move.positioned (h : Move i s t) (hs : EngineReady s) (hne : s.engine.eng ≠ .idle)
    (hw : decodeCommand s.status.cmdLast = .ok i) (hp : Positioned s.work s.engine.fs) (hr : ReadRegular s) :
    Positioned t.work t.engine.fs := by
  have hhost := not_isWireCode_of_decodeCommand hw
  have hheader {r : ReadRegs} {q : List Byte} {m : Memories} (hu : TookCode i .readFormat s r q m) :
      s.work.i = 0 ∧ s.work.j = 0 := hp.fresh (.inr (.inr (hu.tookByte hhost).2.1))
  cases h
  case packetDispatched | payloadEnds => exact hp.leave rfl
  case resumes he =>
    have hc := hs.consistent (by rw [he]; decide)
    obtain ⟨-, hown⟩ := hc.inProgress hw hne
    have hrec := (ownState_recoveryOnly (by rw [he]; decide) hown).2
    exact hp.atBoundary (.inl (hc.recovering hrec)) rfl
  case framerStarts => exact positioned_of_fresh packetSize_zero rfl rfl
  case highByte f g b r q m hfg hu =>
    obtain ⟨-, hf, -⟩ := hu
    simp only [List.mem_cons, Prod.mk.injEq, List.not_mem_nil, or_false] at hfg
    rcases hfg with ⟨rfl, rfl⟩ | ⟨rfl, rfl⟩
    · obtain ⟨hi, hj⟩ := hp.fresh (.inl hf)
      exact positioned_of_fresh hp.sizeIs hi hj
    · obtain ⟨hj, hi⟩ := hp.boundary (.inr (.inl hf))
      exact positioned_of_boundary hp.sizeIs ((Nat.le_add_right _ _).trans hp.inside) hj hi rfl
  case sized hu =>
    obtain ⟨hi, hj⟩ := hp.fresh (.inr (.inl hu.2.1))
    exact positioned_of_fresh rfl hi hj
  case headerEnds hu | payload hu | threshold hu | oversize hu =>
    exact positioned_of_fresh rfl (hheader hu).1 (hheader hu).2
  case badType hu =>
    obtain ⟨hi, hj⟩ := hheader (.inr hu)
    exact positioned_of_fresh hp.sizeIs hi hj
  case announces hu => exact hp.atBoundary (.inr (.inr (hu.tookByte hhost).2.1)) rfl
  case counts r q m he hf hread hact =>
    have hreq : readRequest s = subReadLength s := by simp only [readRequest, he, hf]
    exact positioned_account (s := afterRead s r q m) hp hf (hread.got fun hact => hreq ▸ hr hact)
  case chunkCounted he hf => exact hp.atBoundary (.inl hf) rfl
  case nop | flush | imgClear | refused | resetEnds | loadEnds | reloadFails | sentLast | sendFails | readEnds |
      readFails | exposes => exact hp.leave rfl
  all_goals exact hp

/-! ### The read in progress -/

/-- A state that holds no read has none in progress. -/
theorem ReadRegular.act_eq_false (h : ReadRegular s) (hreq : readRequest s = 0) : s.rd.act = false := by
  rw [← Bool.not_eq_true]
  intro hact
  exact absurd (h hact) (by rw [hreq]; exact Nat.not_lt_zero _)

theorem readRegular_of_act_eq_false (h : s.rd.act = false) : ReadRegular s :=
  fun hact => absurd (hact.symm.trans h) (by decide)

/-- Outside the states of READ, GET_VERSION and the framer no read is held. -/
theorem readRequest_eq_zero (h : s.engine.eng ∉ [Eng.rrRead, .vpRead, .pk]) : readRequest s = 0 := by
  unfold readRequest
  split <;> simp_all

/-- The framer states that hold no read. -/
theorem readRequest_eq_zero_of_framer (he : s.engine.eng = .pk) (hf : s.engine.fs ∈ [Framer.start, .doReset, .endState]) :
    readRequest s = 0 := by
  simp only [List.mem_cons, List.not_mem_nil, or_false] at hf
  rcases hf with hf | hf | hf <;> simp only [readRequest, he, hf]

/-- What a move does to the read: one goes on with less than its request; or none is in progress; or the state holds
none, and none starts. -/
theorem Move.read (h : Move i s t) :
    (∃ r q m, ReadLeaves (readRequest s) s r q m ∧ r.got.toNat ≠ readRequest s ∧ t = afterRead s r q m) ∨
      t.rd.act = false ∨
      (isWireCode i = true ∨ readRequest s = 0 ∨ Dispatches i s) ∧ t.rd.act = s.rd.act := by
  have hin {e : Eng} (he : s.engine.eng = e) (hread : e ∉ [Eng.rrRead, .vpRead, .pk]) :
      isWireCode i = true ∨ readRequest s = 0 ∨ Dispatches i s := .inr (.inl (readRequest_eq_zero (he ▸ hread)))
  have hon {es : List Eng} (he : s.engine.eng ∈ es) (hread : ∀ e ∈ es, e ∉ [Eng.rrRead, .vpRead, .pk]) :
      isWireCode i = true ∨ readRequest s = 0 ∨ Dispatches i s :=
    .inr (.inl (readRequest_eq_zero (hread _ he)))
  have hpk {f : Framer} (he : s.engine.eng = .pk) (hf : s.engine.fs = f)
      (hread : f ∈ [Framer.start, .doReset, .endState]) :
      isWireCode i = true ∨ readRequest s = 0 ∨ Dispatches i s :=
    .inr (.inl (readRequest_eq_zero_of_framer he (hf ▸ hread)))
  have hcode {f : Framer} {r : ReadRegs} {q : List Byte} {m : Memories} (hu : TookCode i f s r q m)
      (hrd : t.rd = r) : t.rd.act = false ∨
        (isWireCode i = true ∨ readRequest s = 0 ∨ Dispatches i s) ∧ t.rd.act = s.rd.act := by
    rcases hu with ⟨hwire, hr, -⟩ | ⟨-, -, -, hact⟩
    · exact .inr ⟨.inl hwire, by rw [hrd, hr]⟩
    · exact .inl (hrd ▸ hact)
  cases h
  case reads r q m he hr hgot => exact .inl ⟨r, q, m, hr, hgot, rfl⟩
  case refused | reloadFails | sendFails | readFails | oversize | badType => exact .inr (.inl rfl)
  case readEnds hact => exact .inr (.inl hact)
  case counts hact => rw [account_eq]; exact .inr (.inl hact)
  case payloadEnds hact => exact .inr (.inl hact)
  case highByte hu | sized hu =>
    obtain ⟨-, -, -, hact⟩ := hu
    exact .inr (.inl hact)
  case headerEnds hu | payload hu | threshold hu | announces hu => exact .inr (hcode hu rfl)
  case nop hi hd | flush hi hd | imgClear hi hd | packetDispatched hi hd => exact .inr (.inr ⟨.inr (.inr hd), rfl⟩)
  case dispatched hd hown hi hf => exact .inr (.inr ⟨.inr (.inr hd), rfl⟩)
  case modeSet he | asserted he | deasserted he | resumes he | countersCleared he | reloads he =>
    exact .inr (.inr ⟨hin he (by decide), rfl⟩)
  case loadEnds he hc | loadRecovers he hc | resetEnds he hc | resetRecovers he hc =>
    exact .inr (.inr ⟨hin he (by decide), rfl⟩)
  case framerStarts he hf | recovers he hf | chunkCounted he hf | exposes he hf =>
    exact .inr (.inr ⟨hpk he hf (by decide), rfl⟩)
  case waits he => exact .inr (.inr ⟨hon he (by decide), rfl⟩)
  case held d e he =>
    have he : s.engine.eng ∈ [Eng.rsHold1, .rsHold2] := List.mem_map_of_mem (f := Prod.fst) he
    exact .inr (.inr ⟨hon he (by decide), rfl⟩)
  case sends he hact hq =>
    exact .inr (.inr ⟨he.elim .inl fun he => hon he (by decide), rfl⟩)
  case sent w e hact he =>
    refine .inr (.inr ⟨he.elim .inl fun he => ?_, rfl⟩)
    have he : s.engine.eng ∈ [Eng.ldHdr, .ldPay, .vpSend] := List.mem_map_of_mem (f := Prod.fst) he
    exact hon he (by decide)
  case runRecovers he hc => exact .inr (.inr ⟨he.elim .inl fun he => hon he (by decide), rfl⟩)
  case sentLast he => exact .inr (.inr ⟨he.elim .inl fun he => hon he (by decide), rfl⟩)

theorem Move.readRegular (h : Move i s t) (hs : EngineReady s) (hne : s.engine.eng ≠ .idle)
    (hw : decodeCommand s.status.cmdLast = .ok i) (hr : ReadRegular s) : ReadRegular t := by
  have hhost := not_isWireCode_of_decodeCommand hw
  rcases h.read with ⟨r, q, m, hleaves, hgot, rfl⟩ | hact | ⟨hcalm, hact⟩
  · exact fun _ => lt_of_le_of_ne (hleaves.got hr) hgot
  · exact readRegular_of_act_eq_false hact
  · have hreq : readRequest s = 0 := by
      rcases hcalm with hwire | hreq | hd
      · exact absurd (hwire.symm.trans hhost) (by decide)
      · exact hreq
      · refine readRequest_eq_zero ?_
        rw [(hs.issued hne hw hd).1]
        decide
    exact readRegular_of_act_eq_false (hact.trans (hr.act_eq_false hreq))

/-! ### Every step -/

theorem EngineStep.framer (h : EngineStep s t) (hs : EngineReady s) (hp : Positioned s.work s.engine.fs)
    (hr : ReadRegular s) : Positioned t.work t.engine.fs ∧ ReadRegular t := by
  cases h with
  | idle => exact ⟨hp, hr⟩
  | refuses => exact ⟨hp.leave rfl, readRegular_of_act_eq_false rfl⟩
  | runs he i hw h =>
    have hmove := exec_move h
    exact ⟨hmove.positioned hs he hw hp hr, hmove.readRegular hs he hw hr⟩

/-- The registers the framer's invariant speaks of, carried over. -/
theorem Carried.framer (h : Carried s t) (hp : Positioned s.work s.engine.fs) (hr : ReadRegular s) :
    Positioned t.work t.engine.fs ∧ ReadRegular t := by
  refine ⟨by rw [h.work, h.engine]; exact hp, ?_⟩
  unfold ReadRegular readRequest subReadLength
  rw [h.rd, h.engine, h.latched, h.work]
  exact hr

/-- P1 and P2 leave the framer registers and the read; a command is issued only with no read in progress. -/
theorem FramerConsistent.beforeEngine (h : FramerConsistent s) :
    Positioned (beforeEngine s).work (beforeEngine s).engine.fs ∧ ReadRegular (beforeEngine s) := by
  obtain ⟨he, hp, hr⟩ := (framerConsistent_iff s).mp h
  obtain ⟨u, hu, hcarried, -⟩ := beforeEngine_carried s
  rcases hu with rfl | ⟨hidle, w, rfl⟩
  · exact hcarried.framer hp hr
  · have hoff : s.rd.act = false := by
      refine hr.act_eq_false (readRequest_eq_zero ?_)
      rw [he.idleIff.mpr hidle]
      decide
    exact hcarried.framer hp (readRegular_of_act_eq_false hoff)

end

/-- Settles O60: the engine by its own invariant; the position and the read move by move. -/
theorem stepKeepsFramerConsistent : Obligations.StepKeepsFramerConsistent := by
  intro s t hs h
  refine (framerConsistent_iff t).mpr ⟨engineConsistent_step hs.engine h, ?_⟩
  rcases step_cases h with rfl | ⟨u, hu, rfl⟩
  · exact ⟨positioned_of_fresh packetSize_zero rfl rfl, readRegular_of_act_eq_false rfl⟩
  · obtain ⟨hp, hr⟩ := hs.beforeEngine
    obtain ⟨hp, hr⟩ := hu.framer hs.engine.ready hp hr
    exact (afterEngine_carried _ u).framer hp hr

/-- Settles O54: reset is idle, with empty memories and FIFOs and nothing counted. -/
theorem resetIsConsistent : Obligations.ResetIsConsistent := by
  intro p
  have hengine := engineConsistent_reset p
  refine ⟨reset_mem_wf p, ⟨Nat.zero_le _, Nat.zero_le _⟩, Nat.zero_le _, fun hne => absurd rfl hne, ?_, ?_⟩
  · exact (writeConsistent_iff _).mpr ⟨hengine, writeRegular_of_empty rfl rfl⟩
  · exact (framerConsistent_iff _).mpr
      ⟨hengine, positioned_of_fresh packetSize_zero rfl rfl, readRegular_of_act_eq_false rfl⟩

end Sys2Proof.Machine

/-! PROOFS. The channel commands and the loader's short steps (40_channel.md, 43_plugin_loader.md, 45_version_probe.md):
READ, GET_VERSION and WRITE step by step, the fixed codes, the holds of the reset pulse, and IMG_CLEAR. -/

namespace Sys2Proof.Machine

/-! ### READ and GET_VERSION (R153, R293) -/

section
variable {s : State} {i : Instr} {l : BitVec 16}

/-- READ in `RR_READ` and GET_VERSION in `VP_READ` read into `DBUF`. -/
theorem exec_readIntoDbuf (h : (i = .read l ∧ s.engine.eng = .rrRead) ∨ (i = .getVersion l ∧ s.engine.eng = .vpRead)) :
    exec i s = .next (readIntoDbuf s) := by
  rcases h with ⟨rfl, he⟩ | ⟨rfl, he⟩
  · simp only [exec, execRead, he]
  · simp only [exec, execGetVersion, he]

/-- A byte into `DBUF` changes the memories only, whatever the registers hold. -/
theorem dbufDest_eq (k : Nat) (b : Byte) (f : Fifos) (g : ReadRegs) :
    dbufDest k b { s with fifo := f, rd := g } = { s with fifo := f, rd := g, mem := (memWrite .dbuf k b s).mem } := by
  unfold dbufDest
  rw [memWrite_eq, memWrite_mem_registers]

end

/-- Settles O29: the step of the read that takes a byte, and what it stores. -/
theorem readStoresEachByte : Obligations.ReadStoresEachByte := by
  intro s i l b q hi hmem hgot hmax hq
  have hlen : s.latched.len.toNat < 65536 := s.latched.len.isLt
  have hcount : BitVec.ofNat 16 ((gotInStep s).toNat + 1) = gotInStep s + 1 := by
    rw [← got_add_one s _ hgot hlen, BitVec.ofNat_toNat, BitVec.setWidth_eq]
  rw [exec_readIntoDbuf hi]
  refine ⟨_, fun hend => ?_, fun hmore hbudget => ?_,
    memWrite_mem_reads .dbuf _ b s hmem (Nat.lt_of_lt_of_le hgot hmax)⟩
  · simp only [readIntoDbuf, logicalRead_byte_done dbufDest _ s b q _ hq hgot hlen (fun f g => dbufDest_eq _ b f g) hend]
    rw [hcount]
    rfl
  · simp only [readIntoDbuf,
      logicalRead_byte_pending dbufDest _ s b q _ hq hgot hlen (fun f g => dbufDest_eq _ b f g) hmore hbudget]

/-- Settles O30: the step of the read that finds no byte. -/
theorem shortReadIsNoError : Obligations.ShortReadIsNoError := by
  intro s i l hi hq
  rw [exec_readIntoDbuf hi]
  refine ⟨fun hbudget => ?_, fun hbudget hmore => ?_⟩
  · simp only [readIntoDbuf, logicalRead_empty_done dbufDest _ s hq (.inr hbudget)]
    rw [BitVec.ofNat_toNat, BitVec.setWidth_eq, hbudget]
    rfl
  · have hmore : (gotInStep s).toNat ≠ s.latched.len.toNat := fun h => hmore (BitVec.eq_of_toNat_eq h)
    simp only [readIntoDbuf, logicalRead_empty_pending dbufDest _ s hq hmore hbudget]

/-! ### WRITE (R154) -/

/-- Settles O31: the cases of a write's step. -/
theorem writeSteps : Obligations.WriteSteps := by
  intro s l he
  have hexec : exec (.write l) s = .next (rwWrite s) := by simp only [exec, execWrite, he]
  rw [hexec]
  refine ⟨fun hpush => ?_, fun hall hline => ?_, fun hpush hline => ?_, fun hpush hleft hline =>
    ⟨fun hstall => ?_, fun hstall => ?_⟩⟩
  · simp only [rwWrite, logicalWrite_push dbufSource _ s (fun _ _ => rfl) hpush]
    rfl
  · simp only [rwWrite, logicalWrite_done dbufSource _ s hall hline]
    rfl
  · simp only [rwWrite, logicalWrite_busy dbufSource _ s hpush hline]
  · simp only [rwWrite, logicalWrite_stall dbufSource _ s hpush hleft hline]
    rw [if_neg hstall]
  · simp only [rwWrite, logicalWrite_stall dbufSource _ s hpush hleft hline]
    rw [if_pos hstall]
    rfl

/-! ### The fixed codes (R101 to R103) -/

/-- Settles O40: each code is sent by `sendThen`, and what follows it does not read the write registers. -/
theorem fixedCodesAreSent : Obligations.FixedCodesAreSent := by
  intro s i code next h
  obtain ⟨go, hexec, hgo⟩ : ∃ go, exec i s = .next (sendThen (constBytes code) code.length .commandSend go s) ∧
      ∀ w, go { s with wr := w } = next { s with wr := w } := by
    rcases h with ⟨rfl, rfl, rfl⟩ | ⟨rfl, rfl, rfl⟩ | ⟨rfl, rfl, hc, rfl⟩ | ⟨rfl, rfl, hc, rfl⟩
    · exact ⟨gotoEng .vpRead, rfl, fun _ => rfl⟩
    · exact ⟨gotoEng .ldPay, rfl, fun _ => rfl⟩
    · exact ⟨rnDone, rfl, fun w => rnDone_of_cmd { s with wr := w } hc⟩
    · exact ⟨rnDone, rfl, fun w => rnDone_of_recovery { s with wr := w } hc⟩
  rw [hexec]
  refine ⟨fun hpush => ?_, fun hall hline => ?_, fun hpush hline => ?_, fun hpush hleft hline =>
    ⟨fun hstall => ?_, fun hstall => ?_⟩⟩
  · exact congrArg _ (sendThen_push _ _ _ _ s (fun _ _ => rfl) hpush)
  · exact congrArg _ ((sendThen_done _ _ _ _ s hall hline).trans (hgo _))
  · exact congrArg _ (sendThen_busy _ _ _ _ s hpush hline)
  · exact congrArg _ (sendThen_stalled _ _ _ _ s hpush hleft hline hstall)
  · exact congrArg _ (sendThen_failed _ _ _ _ s hpush hleft hline hstall)

/-! ### The holds of the reset pulse (R194, R196) -/

/-- Settles O34: both holds are the same delay, for the host and in recovery. -/
theorem resetUnitHolds : Obligations.ResetUnitHolds := by
  intro s pm nr ap e f hef he i hi
  have hstep : exec i s = .next (waitThen s.cfg.shortDelay (gotoEng f) s) := by
    rcases hef with ⟨rfl, rfl⟩ | ⟨rfl, rfl⟩ <;> exact exec_of_resetState he rfl hi
  rw [hstep, waitThen_step]
  refine ⟨fun hdone => ?_, fun hleft htick => ?_, fun hleft htick => ?_⟩
  · rw [if_pos hdone]
    rfl
  · rw [if_neg hleft, if_pos htick]
  · rw [if_neg hleft, if_neg (by rw [htick]; decide)]

/-! ### NOP, FLUSH and IMG_CLEAR -/

/-- Settles O27: both complete in their dispatch step. -/
theorem nopAndFlushComplete : Obligations.NopAndFlushComplete := fun _ => ⟨rfl, rfl⟩

/-- An image with no cell listed reads 0 everywhere (R52). -/
theorem memRead_img_of_empty {s : State} (h : s.mem.img = []) (a : Nat) : memRead .img a s = 0 := by
  unfold memRead
  split
  · have hfind : Memory.find (s.mem.of .img) a = none := by
      rw [Memories.of, h]
      rfl
    rw [hfind]
    rfl
  · rfl

/-- Settles O36: the cleared image lists no cell. -/
theorem imgClearCompletes : Obligations.ImgClearCompletes :=
  fun s => ⟨{ s.mem with img := [] }, rfl, fun a => memRead_img_of_empty rfl a, fun _ => ⟨rfl, rfl⟩⟩

/-- Settles O20: the push by the room in `rxq`. -/
theorem receiverPush : Obligations.ReceiverPush :=
  fun s b => ⟨rfl, fun hroom => if_pos hroom, fun hfull => receive_byte_full s b hfull, rfl⟩

end Sys2Proof.Machine

/-! PROOFS. The packet framer's payload (44_packet_engine.md): the payload headers, the sub-reads byte by byte, and the
states that run the wire codes. -/

namespace Sys2Proof.Machine

/-! ### Payload headers (R107, R246) -/

/-- A packet is empty exactly when its size field is 0 (R107). -/
theorem packetSize_eq_zero (blocks : BitVec 16) : packetSize blocks = 0 ↔ blocks = 0 := by
  have hblocks : blocks.toNat < 65536 := blocks.isLt
  have hzero : (0 : BitVec 24).toNat = 0 ∧ (0 : BitVec 16).toNat = 0 := ⟨rfl, rfl⟩
  rw [packetSize_eq, BitVec.toNat_eq, BitVec.toNat_eq, BitVec.toNat_ofNat, hzero.1, hzero.2]
  omega

section
variable (hi lo t : Byte) (s : State)

theorem payloadHeader_empty (h : sizeField hi lo = 0) :
    payloadHeader (headerRegs hi lo t s) = gotoFs .endState (headerRegs hi lo t s) :=
  if_pos ((packetSize_eq_zero _).mpr h)

theorem payloadHeader_oversize (h : sizeField hi lo ≠ 0) (hmax : s.cfg.maxBlocks < (sizeField hi lo).toNat) :
    payloadHeader (headerRegs hi lo t s) = raiseError .oversize (headerRegs hi lo t s) :=
  (if_neg (mt (packetSize_eq_zero _).mp h)).trans (if_pos hmax)

theorem payloadHeader_fits (h : sizeField hi lo ≠ 0) (hmax : (sizeField hi lo).toNat ≤ s.cfg.maxBlocks) :
    payloadHeader (headerRegs hi lo t s) = gotoFs .readData (headerRegs hi lo t s) :=
  (if_neg (mt (packetSize_eq_zero _).mp h)).trans (if_neg (not_lt.mpr hmax))

end

/-- Settles O41: the three types are one dispatch, by the size field. -/
theorem payloadHeaders : Obligations.PayloadHeaders := by
  intro s hi lo i ty hty
  have hexec : exec i s = .next (payloadHeader (headerRegs hi lo ty s)) := by
    rcases hty with ⟨rfl, rfl⟩ | ⟨rfl, rfl⟩ | ⟨rfl, rfl⟩ <;> rfl
  rw [hexec]
  refine ⟨fun hempty => ?_, fun hne hmax => ?_, fun hne hmax => ?_⟩
  · rw [payloadHeader_empty hi lo ty s hempty, headerRegs_eq, hempty]
    rfl
  · rw [payloadHeader_fits hi lo ty s hne hmax, headerRegs_eq]
    rfl
  · rw [payloadHeader_oversize hi lo ty s hne hmax, headerRegs_eq]
    rfl

/-! ### Sub-reads (R249 to R253) -/

section
variable {s : State}

/-- A byte into `PKT_MEM` changes the memories only, whatever the read's registers hold. -/
theorem pktDest_eq (k : Nat) (b : Byte) (f : Fifos) (g : ReadRegs) :
    pktDest k b { s with fifo := f, rd := g } = { s with
      fifo := f, rd := g, mem := (memWrite .pkt (s.work.i.toNat + s.work.j.toNat + k) b s).mem } := by
  unfold pktDest
  rw [memWrite_eq, memWrite_mem_registers]

/-- READ_PACKET in `ReadData`. -/
theorem exec_readPacket_of_readData (he : s.engine.eng = .pk) (hf : s.engine.fs = .readData) :
    exec .readPacket s = .next (fsReadData s) := by
  rw [exec_readPacket_of_pk s he, framerStep, hf]

/-- With something left of the chunk the entry test fails (R249). -/
theorem fsReadData_of_left (h : 0 < subReadLength s) : fsReadData s = subRead s := by
  refine if_neg fun hend => ?_
  unfold subReadLength at h
  omega

/-- Less than what was asked for leaves the chunk unfinished: it is counted in `j` (R251). -/
theorem account_short {n : Nat} (hn : n < subReadLength s) :
    account n s = { s with work.j := BitVec.ofNat 11 (s.work.j.toNat + n) } := by
  unfold subReadLength at hn
  rcases account_cases n s with ⟨h, -⟩ | ⟨-, h, -⟩ | ⟨-, -, h⟩
  · omega
  · omega
  · exact h

/-- A full chunk is counted in `i` (R252). -/
theorem account_full {n : Nat} (h : s.work.j.toNat + n = 1024) (hf : s.engine.fs = .readData) :
    account n s = { s with
      work.i := s.work.i + 1024, work.j := 0
      engine.fs := if s.session.rbyte ≠ 0 then .doReset
        else if s.work.i + 1024 = s.work.size then .endState else .readData } := by
  rcases account_cases n s with ⟨-, heq⟩ | ⟨hne, -⟩ | ⟨hne, -⟩
  · rw [heq, hf]
  · exact absurd h hne
  · exact absurd h hne

/-- The last chunk, a short one, ends the payload (R253). -/
theorem account_final {n : Nat} (hn : n = subReadLength s) (hpos : 0 < n) (hne : s.work.j.toNat + n ≠ 1024) :
    account n s = { s with work.i := s.work.size, work.j := 0, engine.fs := .endState } := by
  have hsize : s.work.size.toNat < 2 ^ 24 := s.work.size.isLt
  unfold subReadLength at hn
  rcases account_cases n s with ⟨h, -⟩ | ⟨-, h, heq⟩ | ⟨-, h, -⟩
  · exact absurd h hne
  · have hi : s.work.i + BitVec.ofNat 24 (s.work.j.toNat + n) = s.work.size := by
      apply BitVec.eq_of_toNat_eq
      rw [BitVec.toNat_add, BitVec.toNat_ofNat]
      omega
    rw [heq, hi]
  · omega

/-- Which sub-reads fail (R251). -/
theorem subReadFails_iff (p : Params) (n r : Nat) :
    subReadFails p n r = true ↔ n = 0 ∨ n < r ∧ p.chunkReadPolicy = .failOnShort := by
  simp [subReadFails]

end

/-- Settles O46: the step of the sub-read that takes a byte, then its account. -/
theorem packetBytesAreStored : Obligations.PacketBytesAreStored := by
  refine ⟨fun s b q hmem he hf hq hgot hj hin hsize => ?_, fun s he hf hact hend => ?_⟩
  · have hmax : subReadLength s < 65536 := by unfold subReadLength; omega
    have hdst (f : Fifos) (g : ReadRegs) := pktDest_eq (s := s) (gotInStep s).toNat b f g
    have haddr : s.work.i.toNat + s.work.j.toNat + (gotInStep s).toNat < memBytes s.cfg .pkt := by
      unfold subReadLength at hgot
      exact Nat.lt_of_lt_of_le (by omega) hsize
    have hdone (hstop : (gotInStep s).toNat + 1 = subReadLength s ∨ budgetInStep s = 0) :=
      logicalRead_byte_done pktDest _ s b q _ hq hgot hmax hdst hstop
    rw [exec_readPacket_of_readData he hf, fsReadData_of_left (Nat.zero_lt_of_lt hgot)]
    refine ⟨_, fun hmore hbudget => ?_, fun hmore hbudget hpolicy => ?_, fun hmore hbudget hpolicy => ?_,
      fun hlast hfull => ?_, fun hlast hpart => ?_, memWrite_mem_reads .pkt _ b s hmem haddr⟩
    · simp only [subRead, logicalRead_byte_pending pktDest _ s b q _ hq hgot hmax hdst hmore.ne hbudget]
    · have hok : ¬subReadFails s.cfg ((gotInStep s).toNat + 1) (subReadLength s) = true := by
        rw [subReadFails_iff, hpolicy]
        simp
      simp only [subRead, hdone (.inr hbudget)]
      rw [if_neg hok]
      exact congrArg _ (account_short hmore)
    · have hfail : subReadFails s.cfg ((gotInStep s).toNat + 1) (subReadLength s) = true :=
        (subReadFails_iff _ _ _).mpr (.inr ⟨hmore, hpolicy⟩)
      simp only [subRead, hdone (.inr hbudget)]
      rw [if_pos hfail]
      rfl
    · have hok : ¬subReadFails s.cfg ((gotInStep s).toNat + 1) (subReadLength s) = true := by
        rw [subReadFails_iff]
        omega
      simp only [subRead, hdone (.inl hlast)]
      rw [if_neg hok]
      exact congrArg _ (account_full hfull hf)
    · have hok : ¬subReadFails s.cfg ((gotInStep s).toNat + 1) (subReadLength s) = true := by
        rw [subReadFails_iff]
        omega
      simp only [subRead, hdone (.inl hlast)]
      rw [if_neg hok]
      exact congrArg _ (account_final hlast (Nat.succ_pos _) hpart)
  · rw [exec_readPacket_of_readData he hf]
    exact congrArg _ (if_pos ⟨hact, hend⟩)

/-- Settles O47: the step of the sub-read that finds no byte, then its account. -/
theorem shortSubReads : Obligations.ShortSubReads := by
  intro s he hf hq hgot
  have hdone (hbudget : budgetInStep s = 0) := logicalRead_empty_done pktDest (subReadLength s) s hq (.inr hbudget)
  rw [exec_readPacket_of_readData he hf, fsReadData_of_left (Nat.zero_lt_of_lt hgot)]
  refine ⟨fun hbudget hwhy => ?_, fun hbudget hsome hpolicy => ?_, fun hbudget => ?_⟩
  · have hfail : subReadFails s.cfg (gotInStep s).toNat (subReadLength s) = true :=
      (subReadFails_iff _ _ _).mpr (hwhy.imp (fun h => by rw [h]; rfl) fun h => ⟨hgot, h⟩)
    simp only [subRead, hdone hbudget]
    rw [if_pos hfail, hbudget]
    rfl
  · have hpos : (gotInStep s).toNat ≠ 0 := fun h => hsome (BitVec.eq_of_toNat_eq h)
    have hok : ¬subReadFails s.cfg (gotInStep s).toNat (subReadLength s) = true := by
      rw [subReadFails_iff, hpolicy]
      simpa using hpos
    simp only [subRead, hdone hbudget]
    rw [if_neg hok, hbudget]
    exact congrArg _ (account_short hgot)
  · simp only [subRead, logicalRead_empty_pending pktDest _ s hq hgot.ne hbudget]

/-! ### The states that run the wire codes (R218, R224, R245, R259, R292) -/

section
variable {s : State} {i : Instr}

/-- P3 runs the command in progress (R9). -/
theorem phase3_of_busy (he : s.engine.eng ≠ .idle) (hw : decodeCommand s.status.cmdLast = .ok i) :
    phase3 s = exec i s := by
  unfold phase3
  rw [if_neg he, hw]

/-- The dispatch of `ReadFormat` is the meaning of the header made of the latched size bytes and the type byte
(R246). -/
theorem exec_of_decodeHeader {t : Byte} (h : decodeHeader (latchedHi s) (latchedLo s) t = .ok i) :
    exec i s = .next (dispatchType t s) := by
  unfold decodeHeader at h
  unfold dispatchType
  split at h
  case h_6 => cases h
  all_goals
    next hkind =>
      cases h
      rw [pktKind_eq_some hkind]
      rfl

end

/-- Settles O8: a send is its state's step; a code received is the one-byte read, then its meaning. -/
theorem wireCodesRunInTheirStates : Obligations.WireCodesRunInTheirStates := by
  intro s i hw
  refine ⟨fun he hi => ?_, fun he hi => ?_, fun len he hi => ?_, fun b q he hi hfresh hq => ⟨fun hf h hh => ?_,
    fun hf a ha => ?_⟩⟩
  all_goals rw [phase3_of_busy (by rw [he]; decide) hw]
  · rcases hi with rfl | rfl
    · simp only [exec, execLoadPlugin, he]
      rfl
    · simp only [exec, execReadPacket, he]
      rfl
  · rcases hi with rfl | rfl
    · simp only [exec, execRunPlugin, he]
      rfl
    · simp only [exec, execReadPacket, he]
      rfl
  · subst hi
    simp only [exec, execGetVersion, he]
    rfl
  · subst hi
    rw [exec_readPacket_of_pk s he, framerStep, hf]
    refine (congrArg _ (readOneByte_byte dispatchType s hfresh b q hq)).trans (Eq.symm ?_)
    exact exec_of_decodeHeader (s := { s with
      fifo.rxq := q, rd := { act := false, got := 1, budget := budgetInStep s } }) hh
  · subst hi
    cases ha
    rw [exec_readPacket_of_pk s he, framerStep, hf]
    exact congrArg _ (readOneByte_byte _ s hfresh b q hq)

end Sys2Proof.Machine

/-! PROOFS. A step as a whole (00_scope.md section 5, 70_reset_and_hazards.md section 1): what P1 leaves, the command a
step runs, the refused word, reset, the registered ports, and the timebase and synchronisers. -/

namespace Sys2Proof.Machine

/-! ### P1 (R61, R66) -/

/-- A host write touches the registers of the host, the memories, the flags, the lines and the engine register. -/
theorem writeReg_eq (r : Reg) (data : Word) (s : State) :
    writeReg r data s = { s with
      status := (writeReg r data s).status, lines := (writeReg r data s).lines
      engine := (writeReg r data s).engine, host := (writeReg r data s).host, mem := (writeReg r data s).mem } := by
  cases hbusy : s.status.busy
  · rw [writeReg_of_idle r data s hbusy]
    cases r
    case imgData => rw [writeIdle, writeImgData_eq]
    case dbufData => rw [writeIdle, writeDbufData_eq]
    all_goals rfl
  · by_cases hr : r = .status
    · rw [hr, writeReg_status]
      rfl
    · rw [writeReg_of_busy r data s hbusy hr]
      rfl

theorem phase1_read (addr : BitVec 8) (s : State) :
    phase1 (.read addr) s = readEffect (regAt addr) { s with out.rdata := some (readReg (regAt addr) s) } := rfl

theorem phase1_write (addr : BitVec 8) (data : Word) (s : State) :
    phase1 (.write addr data) s = writeReg (regAt addr) data s := rfl

/-- While busy P1 leaves the lines, the memories, `TIMEOUT` and the user variables. -/
theorem phase1_of_busy (b : Bus) (s : State) (hbusy : s.status.busy = true) :
    (phase1 b s).lines = s.lines ∧ (phase1 b s).mem = s.mem ∧ (phase1 b s).host.timeout = s.host.timeout ∧
      (phase1 b s).host.uv = s.host.uv := by
  cases b with
  | none => exact ⟨rfl, rfl, rfl, rfl⟩
  | read addr =>
    rw [phase1_read]
    cases regAt addr <;> exact ⟨rfl, rfl, rfl, rfl⟩
  | write addr data =>
    rw [phase1_write]
    by_cases hr : regAt addr = .status
    · rw [hr, writeReg_status]
      exact ⟨rfl, rfl, rfl, rfl⟩
    · rw [writeReg_of_busy _ data s hbusy hr]
      exact ⟨rfl, rfl, rfl, rfl⟩

/-- P1 leaves the parameters, the timebase and the synchronisers. -/
theorem phase1_clocked (b : Bus) (s : State) :
    (phase1 b s).cfg = s.cfg ∧ (phase1 b s).tickCnt = s.tickCnt ∧ (phase1 b s).sync = s.sync := by
  cases b with
  | none => exact ⟨rfl, rfl, rfl⟩
  | read addr =>
    rw [phase1_read, readEffect_eq]
    exact ⟨rfl, rfl, rfl⟩
  | write addr data =>
    rw [phase1_write, writeReg_eq]
    exact ⟨rfl, rfl, rfl⟩

/-- A read drives the register's value (R61). -/
theorem phase1_out_of_read (addr : BitVec 8) (s : State) :
    (phase1 (.read addr) s).out = { s.out with rdata := some (readReg (regAt addr) s) } := by
  rw [phase1_read, readEffect_eq]

/-- Without a read P1 drives nothing. -/
theorem phase1_out_of_not_read (b : Bus) (s : State) (hread : ∀ addr, b ≠ .read addr) :
    (phase1 b s).out = s.out := by
  cases b with
  | none => rfl
  | read addr => exact absurd rfl (hread addr)
  | write addr data =>
    rw [phase1_write, writeReg_eq]

/-! ### What P3 starts from, and what follows it -/

/-- P1 and P2 leave the parameters, the timebase and the synchronisers. -/
theorem beforeEngine_clocked (s : State) :
    (beforeEngine s).cfg = s.cfg ∧ (beforeEngine s).tickCnt = s.tickCnt ∧ (beforeEngine s).sync = s.sync := by
  unfold beforeEngine
  rw [phase2_eq]
  exact phase1_clocked (nextInput s).bus (beginStep s)

/-- P2 drives no port. -/
theorem beforeEngine_out (s : State) : (beforeEngine s).out = (phase1 (nextInput s).bus (beginStep s)).out := by
  unfold beforeEngine
  rw [phase2_eq]

section
variable {i : Instr} {s t : State}

/-- A command neither drives a port nor touches the timebase and the synchronisers. -/
theorem Move.clocked (h : Move i s t) : t.tickCnt = s.tickCnt ∧ t.sync = s.sync ∧ t.out = s.out := by
  cases h
  case counts => rw [account_eq]; exact ⟨rfl, rfl, rfl⟩
  all_goals exact ⟨rfl, rfl, rfl⟩

theorem EngineStep.clocked (h : EngineStep s t) :
    t.cfg = s.cfg ∧ t.tickCnt = s.tickCnt ∧ t.sync = s.sync ∧ t.out = s.out := by
  cases h with
  | idle => exact ⟨rfl, rfl, rfl, rfl⟩
  | refuses => exact ⟨rfl, rfl, rfl, rfl⟩
  | runs he i hw h => exact ⟨(exec_move h).cfg, (exec_move h).clocked⟩

end

/-- P4 drives the serial ports only; P5 counts the timebase and clocks the synchronisers (R141, R142). -/
theorem afterEngine_clocked (i : Inputs) (s : State) :
    (afterEngine i s).cfg = s.cfg ∧ (afterEngine i s).tickCnt = (s.tickCnt + 1) % s.cfg.tickCycles ∧
      (∃ c, (afterEngine i s).sync = syncStep s.cfg c i s.sync) ∧
      ∃ ev txd, (afterEngine i s).out = { s.out with txEv := ev, txdO := txd } := by
  unfold afterEngine phase5
  rw [phase4_eq]
  exact ⟨rfl, rfl, ⟨_, rfl⟩, _, _, rfl⟩

/-- The timebase, the synchronisers and the ports after a step without `rst`. -/
theorem step_clocked {s t : State} (hrst : (nextInput s).rst = false) (h : step s = .next t) :
    t.cfg = s.cfg ∧ t.tickCnt = (s.tickCnt + 1) % s.cfg.tickCycles ∧
      (∃ c, t.sync = syncStep s.cfg c (nextInput s) s.sync) ∧
      ∃ ev txd, t.out = { (phase1 (nextInput s).bus (beginStep s)).out with txEv := ev, txdO := txd } := by
  obtain ⟨u, hu, rfl⟩ := step_cases_of_not_rst hrst h
  obtain ⟨hcfg, htick, hsync, hout⟩ := hu.clocked
  have hbefore := beforeEngine_clocked s
  have hafter := afterEngine_clocked (nextInput s) u
  rw [hcfg, htick, hsync, hout, hbefore.1, hbefore.2.1, hbefore.2.2, beforeEngine_out] at hafter
  exact hafter

/-! ### The statements -/

/-- A refused word ends in P3 with InvalidParamsError (R92). -/
theorem phase3_of_refused {s : State} {e : DecodeError} (he : s.engine.eng ≠ .idle)
    (hw : decodeCommand s.status.cmdLast = .error e) : phase3 s = .next (raiseError .invalidParams s) := by
  unfold phase3
  rw [if_neg he, hw]

/-- Settles O5: the issue and the abort leave an idle block at rest but for the status registers. -/
theorem refusedWordChangesOnlyResult : Obligations.RefusedWordChangesOnlyResult := by
  intro s w e hidle hbusy hrd hwr hdly hw
  rw [phase3_of_refused (s := issue w s) (by simp [issue]) hw]
  have hread : ({ act := false, got := s.rd.got, budget := s.rd.budget } : ReadRegs) = s.rd := by rw [← hrd]
  have hwrite : ({ act := false, idx := s.wr.idx, sent := s.wr.sent, stall := s.wr.stall } : WriteRegs) = s.wr := by
    rw [← hwr]
  have hdelay : ({ act := false, cnt := s.dly.cnt } : DelayRegs) = s.dly := by rw [← hdly]
  simp only [raiseError, issue, hread, hwrite, hdelay, ← hidle, hbusy]
  rfl

/-- Settles O6: the word reaches `CMD`, and P3 decodes what was written. -/
theorem stepRunsIssuedCommand : Obligations.StepRunsIssuedCommand := by
  intro s addr w i hrst hidle hbus haddr hw
  have hreg : regAt addr = .cmd := by
    rw [← regAt_and_mask, haddr]
    decide
  have hbefore : beforeEngine s = phase2 (nextInput s).rx (issue w (beginStep s)) := by
    unfold beforeEngine
    rw [hbus]
    rw [phase1_write, hreg, writeReg_of_idle .cmd w (beginStep s) hidle]
    rfl
  have hcarried := phase2_carried (nextInput s).rx (issue w (beginStep s))
  have hdecode : (phase2 (nextInput s).rx (issue w (beginStep s))).engine.eng ≠ .idle := by
    rw [hcarried.engine]
    simp [issue]
  have hword : decodeCommand (phase2 (nextInput s).rx (issue w (beginStep s))).status.cmdLast = .ok i := by
    rw [hcarried.cmdLast]
    exact hw
  rw [step_of_not_rst hrst, hbefore, phase3_of_busy hdecode hword]

/-- Settles O7: busy, no word is issued, and P1 and P2 leave what the command works on. -/
theorem stepRunsCommandInProgress : Obligations.StepRunsCommandInProgress := by
  intro s i hrst hbusy he hw
  obtain ⟨u, hu, hcarried, -⟩ := beforeEngine_carried s
  obtain rfl : u = s := hu.resolve_right fun hissue => by
    rw [hbusy] at hissue
    exact absurd hissue.1 (by decide)
  have hrun : phase3 (beforeEngine u) = exec i (beforeEngine u) :=
    phase3_of_busy (by rw [hcarried.engine]; exact he) (by rw [hcarried.cmdLast]; exact hw)
  refine ⟨by rw [step_of_not_rst hrst, hrun], hcarried.engine, hcarried.cmdLast, hcarried.work, hcarried.session, ?_⟩
  unfold beforeEngine
  rw [phase2_eq]
  exact phase1_of_busy (nextInput u).bus (beginStep u) hbusy

/-- Settles O10: the reset step is the reset state, field by field. -/
theorem resetOverridesEverything : Obligations.ResetOverridesEverything := by
  intro s hrst
  refine ⟨_, step_of_rst hrst, rfl, rfl, fun addr hbus => ?_⟩
  exact congrArg resetRdata hbus

/-- Settles O16: the map by its 24 offsets, and the arms of P1. -/
theorem hostAccessesReachTheirRegisters : Obligations.HostAccessesReachTheirRegisters := by
  refine ⟨by decide, readEffect_eq_self, fun s hrst => ⟨beginStep_eq s, fun hbus => ?_, fun addr hbus => ?_,
    fun addr data hbus => ?_⟩⟩
  all_goals rw [step_of_not_rst hrst, beforeEngine, hbus]
  · rfl
  · rw [← readReg_beginStep (regAt addr) s]
    rfl
  · rfl

/-- Settles O23: two steps of the synchronisers, line by line. -/
theorem synchronisersAndTimebase : Obligations.SynchronisersAndTimebase := by
  intro s t u hs ht hst htu
  obtain ⟨hcfg, htick, ⟨c, hsync⟩, -⟩ := step_clocked hs hst
  obtain ⟨-, -, ⟨d, hsync'⟩, -⟩ := step_clocked ht htu
  refine ⟨htick, ?_⟩
  rw [hsync', hsync, hcfg]
  refine ⟨secondStage_cases .., secondStage_cases .., fun k hk => ?_⟩
  simp only [syncStep]
  rw [getLsbD_secondStages _ _ _ _ k hk]
  exact secondStage_cases ..

/-- A reset step without a read returns nothing. -/
theorem resetRdata_of_not_read {b : Bus} (hread : ∀ addr, b ≠ .read addr) : resetRdata b = none := by
  cases b with
  | none => rfl
  | read addr => exact absurd rfl (hread addr)
  | write addr data => rfl

/-- Settles O24: the ports are driven at the start of the step; P1 adds the value read. -/
theorem outputsAreRegistered : Obligations.OutputsAreRegistered := by
  intro s t h
  cases hrst : (nextInput s).rst
  · obtain ⟨-, -, -, ev, txd, hout⟩ := step_clocked hrst h
    by_cases hread : ∃ addr, (nextInput s).bus = .read addr
    · obtain ⟨addr, hbus⟩ := hread
      rw [hbus, phase1_out_of_read, readReg_beginStep] at hout
      rw [hout]
      refine ⟨rfl, rfl, rfl, rfl, fun _ a ha => ?_, fun hnot => absurd hbus (hnot addr)⟩
      cases hbus.symm.trans ha
      rfl
    · rw [phase1_out_of_not_read _ _ fun addr hbus => hread ⟨addr, hbus⟩] at hout
      rw [hout]
      exact ⟨rfl, rfl, rfl, rfl, fun _ addr hbus => absurd ⟨addr, hbus⟩ hread, fun _ => rfl⟩
  · rw [step_of_rst hrst] at h
    cases h
    refine ⟨rfl, rfl, rfl, rfl, fun hnot => absurd hnot (by decide), fun hnot => ?_⟩
    exact resetRdata_of_not_read hnot

end Sys2Proof.Machine

/-! PROOFS. The plain registers and `CTRL` (20_memory.md section 2, 41_control_lines.md section 1): the layout of their
words, what a write stores, and the reads after reset. -/

namespace Sys2Proof.Machine

/-! ### The user variables (R79) -/

/-- The bits of a user variable's word: the value, the flag, and 0 above. -/
theorem getLsbD_uvWord (u : UserVar) (k : Nat) :
    (uvWord u).getLsbD k = if k < 8 then u.value.getLsbD k else decide (k = 8) && u.en := by
  rw [uvWord, BitVec.getLsbD_append, BitVec.getLsbD_append]
  split_ifs with hvalue hflag
  · rfl
  · have hk : k = 8 := by omega
    simp [hk]
  · have hk : k ≠ 8 := by omega
    simp [hk]

/-- The low byte of a user variable's word is its value. -/
theorem uvWord_value (u : UserVar) : (uvWord u).extractLsb' 0 8 = u.value :=
  BitVec.extractLsb'_append_eq_right

/-- Above the flag a user variable's word is 0. -/
theorem uvWord_above (u : UserVar) : (uvWord u).extractLsb' 9 23 = 0 := by
  rw [uvWord, extractLsb'_append_above _ u.value 1, extractLsb'_append_above _ (BitVec.ofBool u.en) 0]
  exact BitVec.extractLsb'_eq_self

/-- A word stored in a user variable keeps its low nine bits. -/
theorem uvWord_of_word (data : Word) :
    uvWord { en := data.getLsbD 8, value := data.extractLsb' 0 8 } = data &&& 0x1FF := by
  have hmask : (0x1FF : Word) = (BitVec.allOnes 9).setWidth 32 := by decide
  refine BitVec.eq_of_getLsbD_eq fun k hk => ?_
  rw [hmask, getLsbD_uvWord, BitVec.getLsbD_and, BitVec.getLsbD_setWidth, BitVec.getLsbD_allOnes]
  split_ifs with hvalue
  · have hnine : k < 9 := by omega
    simp [hvalue, hk, hnine]
  · by_cases hflag : k = 8
    · simp [hflag]
    · have hnine : ¬k < 9 := by omega
      simp [hflag, hnine]

/-! ### `CTRL` (R171 to R173) -/

/-- The low `w` bits of a field. -/
theorem getLsbD_maskLow {n : Nat} (w : Nat) (v : BitVec n) {k : Nat} (hk : k < n) :
    (maskLow w v).getLsbD k = (decide (k < w) && v.getLsbD k) := by
  rw [maskLow, BitVec.getLsbD_and, BitVec.getLsbD_ofNat, Nat.testBit_two_pow_sub_one, decide_eq_true hk,
    Bool.true_and, Bool.and_comm]

/-- An empty field has no low bits. -/
theorem maskLow_zero {n : Nat} (w : Nat) : maskLow w 0#n = 0#n := BitVec.zero_and

section
variable (s : State)

/-- The two output lines, at bits 0 and 1. -/
theorem ctrlWord_lines : (ctrlWord s).getLsbD 0 = s.lines.dtr ∧ (ctrlWord s).getLsbD 1 = s.lines.mode := by
  rw [ctrlWord]
  constructor
  · rw [BitVec.getLsbD_append]
    simp
  · rw [BitVec.getLsbD_append, BitVec.getLsbD_append]
    simp

/-- The spare outputs, from bit 2. -/
theorem ctrlWord_auxOut : (ctrlWord s).extractLsb' 2 6 = maskLow s.cfg.auxOutW s.lines.auxOut := by
  rw [ctrlWord, extractLsb'_append_above _ (BitVec.ofBool s.lines.dtr) 1,
    extractLsb'_append_above _ (BitVec.ofBool s.lines.mode) 0]
  exact BitVec.extractLsb'_append_eq_right

/-- From bit 8 on, the lines that are read only. -/
theorem ctrlWord_inputs (k : Nat) : (ctrlWord s).getLsbD (8 + k) =
    (0#16 ++ maskLow s.cfg.auxInW s.sync.aux2 ++ BitVec.ofBool s.sync.ps2).getLsbD k := by
  have hdtr : ¬8 + k < 1 := by omega
  have hmode : ¬8 + k - 1 < 1 := by omega
  have haux : ¬8 + k - 1 - 1 < 6 := by omega
  have hk : 8 + k - 1 - 1 - 6 = k := by omega
  rw [ctrlWord, BitVec.getLsbD_append, if_neg hdtr, BitVec.getLsbD_append, if_neg hmode, BitVec.getLsbD_append,
    if_neg haux, hk]

/-- The power sense, at bit 8. -/
theorem ctrlWord_powerSense : (ctrlWord s).getLsbD 8 = s.sync.ps2 := by
  rw [ctrlWord_inputs s 0, BitVec.getLsbD_append]
  simp

/-- The spare inputs, from bit 9, and the reserved bits. -/
theorem ctrlWord_auxIn (k : Nat) : (ctrlWord s).getLsbD (9 + k) =
    if k < 7 then (maskLow s.cfg.auxInW s.sync.aux2).getLsbD k else false := by
  have hk : 9 + k = 8 + (k + 1) := by omega
  have hps : ¬k + 1 < 1 := by omega
  rw [hk, ctrlWord_inputs, BitVec.getLsbD_append, if_neg hps, Nat.add_sub_cancel, BitVec.getLsbD_append,
    BitVec.getLsbD_zero]

end

/-- The state's lines written back. -/
theorem setLines_ctrlWord (s : State) (haux : maskLow s.cfg.auxOutW s.lines.auxOut = s.lines.auxOut) :
    setLines (ctrlWord s) s = s := by
  unfold setLines
  rw [(ctrlWord_lines s).1, (ctrlWord_lines s).2, ctrlWord_auxOut, haux, haux]

/-! ### The statements -/

/-- Settles O9, register by register. -/
theorem resetRegisterReads : Obligations.ResetRegisterReads := by
  intro p
  refine ⟨rfl, ?_, ?_, fun r hid hstatus hctrl hdbuf => ?_⟩
  · have hword : readReg .status (State.resetWith p) = readReg .status State.reset := rfl
    rw [hword]
    decide
  · have hword : readReg .ctrl (State.resetWith p) =
        0#16 ++ maskLow p.auxInW 0#7 ++ BitVec.ofBool false ++ maskLow p.auxOutW 0#6 ++ BitVec.ofBool true ++
          BitVec.ofBool true := rfl
    rw [hword, maskLow_zero, maskLow_zero]
    decide
  · cases r
    case id => exact absurd rfl hid
    case status => exact absurd rfl hstatus
    case ctrl => exact absurd rfl hctrl
    case dbufData => exact absurd rfl hdbuf
    case imgData => exact congrArg (BitVec.setWidth 32) (memRead_img_of_empty rfl _)
    case uv k =>
      have hzero : (State.resetWith p).host.uv[k] = { en := false, value := 0 } := Vector.getElem_replicate ..
      simp only [readReg, hzero]
      rfl
    all_goals rfl

/-- Settles O11: reads by the register's field, writes by its rule; a user variable by its word. -/
theorem plainRegistersReadAndWrite : Obligations.PlainRegistersReadAndWrite := by
  intro s data k hidle
  have hwrite (r : Reg) : writeReg r data s = writeIdle r data s := writeReg_of_idle r data s hidle
  have hset : (writeUv k data s).host.uv[k] = { en := data.getLsbD 8, value := data.extractLsb' 0 8 } :=
    Vector.getElem_set_self _
  simp only [hwrite]
  refine ⟨rfl, rfl, rfl, rfl, rfl, rfl, rfl, rfl, rfl, rfl, rfl, rfl, rfl, rfl, rfl, rfl, rfl, rfl,
    getLsbD_uvWord _ 8, uvWord_value _, uvWord_above _, ?_, ⟨_, rfl, hset, fun j hj => ?_⟩, rfl, rfl, rfl, rfl⟩
  · exact (congrArg uvWord hset).trans (uvWord_of_word data)
  · exact Vector.getElem_set_ne _ _ fun hkj => hj (Fin.ext hkj.symm)

/-- Settles O15: the layout of the word, the write's fields, and the write-back. -/
theorem ctrlReadsAndWrites : Obligations.CtrlReadsAndWrites := by
  intro s data hout hin
  refine ⟨(ctrlWord_lines s).1, (ctrlWord_lines s).2, fun k hk => ?_, ctrlWord_powerSense s, fun k hk => ?_,
    fun k hk => ?_, fun hidle => ⟨_, fun k hk => ?_, writeReg_of_idle .ctrl data s hidle⟩, fun haux hidle => ?_⟩
  · have hbit := congrArg (BitVec.getLsbD · k) (ctrlWord_auxOut s)
    simp only [BitVec.getLsbD_extractLsb', hk, decide_true, Bool.true_and] at hbit
    exact hbit.trans (getLsbD_maskLow _ _ hk)
  · exact (ctrlWord_auxIn s k).trans ((if_pos hk).trans (getLsbD_maskLow _ _ hk))
  · obtain ⟨j, rfl⟩ := Nat.exists_eq_add_of_le hk
    have hj : 16 + j = 9 + (7 + j) := by omega
    rw [hj]
    exact (ctrlWord_auxIn s (7 + j)).trans (if_neg (by omega))
  · rw [getLsbD_maskLow _ _ hk, BitVec.getLsbD_extractLsb', decide_eq_true hk, Bool.true_and]
  · rw [writeReg_of_idle _ _ _ hidle]
    exact setLines_ctrlWord s haux

end Sys2Proof.Machine

/-! PROOFS. How long the primitives hold with every step a tick (40_channel.md section 2): a read with no byte by its
budget (R145, R146), a delay by its count (R148). -/

namespace Sys2Proof.Machine

/-- What each step counts down by one has `k` less after `k` steps. -/
theorem countdown_iterate {step : State → State} {left : Nat → State → Prop}
    (hstep : ∀ m t, left (m + 1) t → left m (step t)) {n : Nat} {s : State} (hs : left n s) {k : Nat} (hk : k ≤ n) :
    left (n - k) (step^[k] s) := by
  induction k with
  | zero => exact hs
  | succ k ih =>
    have hleft : n - k = n - (k + 1) + 1 := by omega
    rw [Function.iterate_succ_apply']
    exact hstep _ _ (hleft ▸ ih (Nat.le_of_succ_le hk))

/-- Every step of `s` is a tick. -/
def EveryStepTicks (s : State) : Prop := s.cfg.tickCycles = 1 ∧ s.tickCnt = 0

theorem tick_of_everyStepTicks {s : State} (h : EveryStepTicks s) : tick s = true := by
  obtain ⟨hcycles, hcnt⟩ := h
  simp only [tick, hcycles, hcnt]
  decide

/-- The predecessor of a nonzero count. -/
theorem toNat_sub_one {x : BitVec 32} {m : Nat} (h : x.toNat = m + 1) : (x - 1).toNat = m := by
  have hlt := x.isLt
  rw [BitVec.toNat_sub_of_le]
  · rw [h]
    rfl
  · exact BitVec.le_def.mpr (by rw [h]; exact Nat.le_add_left 1 m)

theorem ne_zero_of_toNat {x : BitVec 32} {m : Nat} (h : x.toNat = m + 1) : x ≠ 0 := by
  rintro rfl
  exact absurd h.symm (Nat.succ_ne_zero m)

/-! ### A read with no byte (R145, R146) -/

/-- `t` waits in a read that has no byte and `m` ticks of its budget left. -/
structure ReadWaits (m : Nat) (t : State) : Prop where
  empty : t.fifo.rxq = []
  ticks : EveryStepTicks t
  got : gotInStep t = 0
  budget : (budgetInStep t).toNat = m

section
variable {r m : Nat} {t : State}

/-- With budget left the read is pending. -/
theorem ReadWaits.step (h : ReadWaits (m + 1) t) (hr : 1 ≤ r) :
    (logicalRead noStore r t).result = .pending ∧ ReadWaits m (logicalRead noStore r t).state := by
  have hgot : (gotInStep t).toNat ≠ r := by
    rw [h.got]
    exact (Nat.lt_of_lt_of_le Nat.zero_lt_one hr).ne
  rw [logicalRead_empty_pending noStore r t h.empty hgot (ne_zero_of_toNat h.budget),
    if_pos (tick_of_everyStepTicks h.ticks)]
  exact ⟨rfl, h.empty, h.ticks, h.got, toNat_sub_one h.budget⟩

/-- Without it the read ends with no byte. -/
theorem ReadWaits.ends (h : ReadWaits 0 t) : (logicalRead noStore r t).result = .done 0 := by
  have hbudget : budgetInStep t = 0 := BitVec.eq_of_toNat_eq h.budget
  rw [logicalRead_empty_done noStore r t h.empty (.inr hbudget), h.got]
  rfl

end

/-- Settles O25: the budget counts down to 0, where the read ends. -/
theorem readGivesUpAfterItsBudget : Obligations.ReadGivesUpAfterItsBudget := by
  intro s r hr hact hempty hcycles hcnt
  have hgot : gotInStep s = 0 := if_neg (by rw [hact]; decide)
  have hbudget : budgetInStep s = s.host.timeout := if_neg (by rw [hact]; decide)
  have hstart : ReadWaits s.host.timeout.toNat s := ⟨hempty, ⟨hcycles, hcnt⟩, hgot, by rw [hbudget]⟩
  have hwaits {k : Nat} (hk : k ≤ s.host.timeout.toNat) :=
    countdown_iterate (step := fun t => (logicalRead noStore r t).state) (fun _ _ h => (h.step hr).2) hstart hk
  refine ⟨fun k hk => ?_, ?_⟩
  · have hleft : s.host.timeout.toNat - k = s.host.timeout.toNat - (k + 1) + 1 := by omega
    exact ((hleft ▸ hwaits hk.le).step hr).1
  · have hend := hwaits le_rfl
    rw [Nat.sub_self] at hend
    exact hend.ends

/-! ### A delay (R148) -/

/-- `t` waits in `WAIT(n)` with `m` ticks left. -/
structure DelayWaits (n : BitVec 32) (m : Nat) (t : State) : Prop where
  ticks : EveryStepTicks t
  count : (delayInStep n t).cnt.toNat = m

section
variable {n : BitVec 32} {m : Nat} {t : State}

/-- With ticks left the delay is pending. -/
theorem DelayWaits.step (h : DelayWaits n (m + 1) t) :
    (waitTicks n t).1 = false ∧ DelayWaits n m (waitTicks n t).2 := by
  have hact := delayInStep_act n t
  have hstep : waitTicks n t = (false, { t with dly := { delayInStep n t with cnt := (delayInStep n t).cnt - 1 } }) := by
    rw [waitTicks, delayStart_inStep]
    exact (if_neg (ne_zero_of_toNat h.count)).trans (if_pos (tick_of_everyStepTicks h.ticks))
  rw [hstep]
  refine ⟨rfl, h.ticks, ?_⟩
  rw [delayInStep, if_pos hact]
  exact toNat_sub_one h.count

/-- Without them it ends. -/
theorem DelayWaits.ends (h : DelayWaits n 0 t) : (waitTicks n t).1 = true := by
  have hzero : (delayInStep n t).cnt = 0 := BitVec.eq_of_toNat_eq h.count
  rw [waitTicks, delayStart_inStep]
  exact congrArg Prod.fst (if_pos hzero)

end

/-- Settles O26: the count runs down to 0, where the delay ends. -/
theorem delayLastsItsTicks : Obligations.DelayLastsItsTicks := by
  intro s n hact hcycles hcnt
  have hcount : delayInStep n s = { act := true, cnt := n } := if_neg (by rw [hact]; decide)
  have hstart : DelayWaits n n.toNat s := ⟨⟨hcycles, hcnt⟩, by rw [hcount]⟩
  have hwaits {k : Nat} (hk : k ≤ n.toNat) :=
    countdown_iterate (step := fun t => (waitTicks n t).2) (fun _ _ h => h.step.2) hstart hk
  refine ⟨fun k hk => ?_, ?_⟩
  · have hleft : n.toNat - k = n.toNat - (k + 1) + 1 := by omega
    exact (hleft ▸ hwaits hk.le).step.1
  · have hend := hwaits le_rfl
    rw [Nat.sub_self] at hend
    exact hend.ends

end Sys2Proof.Machine

/-! PROOFS. The bit-level refinement (40_channel.md section 1, R143, R144): the levels of a character, and the receiver
run over them, one bit's block of levels at a time. -/

namespace Sys2Proof.Machine

/-! ### The levels of a character (R116, R144) -/

/-- The ten bits of a character: start bit, data bits least significant first, stop bit. -/
def characterBits (b : Byte) : List Bool := false :: (List.range 8).map b.getLsbD ++ [true]

/-- A character's levels are its bits, `baud` steps each. -/
theorem characterLevels_eq (baud : Nat) (b : Byte) :
    characterLevels baud b = (characterBits b).flatMap (List.replicate baud) := by
  simp [characterLevels, characterBits, List.flatMap_map]

/-- Step `k` of bits held `n` steps each is in bit `k / n`. -/
theorem getElem?_flatMap_replicate {n : Nat} (hn : 0 < n) (bits : List Bool) (k : Nat) :
    (bits.flatMap (List.replicate n))[k]? = bits[k / n]? := by
  induction bits generalizing k with
  | nil => rfl
  | cons a bits ih =>
    rw [List.flatMap_cons]
    rcases Nat.lt_or_ge k n with hk | hk
    · rw [List.getElem?_append_left (by simpa using hk), Nat.div_eq_of_lt hk]
      simp [hk]
    · rw [List.getElem?_append_right (by simpa using hk), List.length_replicate, ih, Nat.div_eq_sub_div hn hk]
      rfl

/-- A character on the line drives the bit its count has reached. -/
theorem some_txdLevel_of_busy {s : State} (hline : s.tx.busy = true) {j : Nat}
    (hbit : (s.cfg.frameCycles - 1 - s.tx.cnt) / s.cfg.baudCycles = j) (hj : j < 10) :
    some (txdLevel s) = (characterBits s.tx.byte)[j]? := by
  unfold txdLevel
  rw [if_pos hline, hbit]
  rcases j with _ | j
  · rfl
  · rcases Nat.lt_or_ge j 8 with hdata | hstop
    · have hget : ((List.range 8).map s.tx.byte.getLsbD ++ [true])[j]? = some (s.tx.byte.getLsbD j) := by
        rw [List.getElem?_append_left (by simpa using hdata), List.getElem?_map, List.getElem?_range hdata]
        rfl
      exact (congrArg some (if_pos hdata)).trans hget.symm
    · obtain rfl : j = 8 := by omega
      rfl

/-! ### The receiver over blocks of levels (R143) -/

section
variable (baud : Nat)

theorem receiverRun_cons (l : Bool) (ls : List Bool) (ph : RxPhase) :
    receiverRun baud (l :: ls) ph =
      (if (bitRxNext baud l ph).2 = .none then (receiverRun baud ls (bitRxNext baud l ph).1).1
        else (bitRxNext baud l ph).2 :: (receiverRun baud ls (bitRxNext baud l ph).1).1,
        (receiverRun baud ls (bitRxNext baud l ph).1).2) := rfl

/-- A run goes on where its first part ends. -/
theorem receiverRun_append {xs ys : List Bool} {ph ph' ph'' : RxPhase} {es es' : List RxEvent}
    (hxs : receiverRun baud xs ph = (es, ph')) (hys : receiverRun baud ys ph' = (es', ph'')) :
    receiverRun baud (xs ++ ys) ph = (es ++ es', ph'') := by
  induction xs generalizing ph es with
  | nil =>
    cases hxs
    exact hys
  | cons l ls ih =>
    rw [receiverRun_cons] at hxs
    rw [List.cons_append, receiverRun_cons]
    obtain ⟨rfl, hend⟩ := Prod.mk.inj hxs
    rw [ih (Prod.ext rfl hend)]
    split_ifs <;> rfl

/-- One level that makes no event. -/
theorem receiverRun_quiet {l : Bool} {ls : List Bool} {ph ph' : RxPhase} (h : bitRxNext baud l ph = (ph', .none)) :
    receiverRun baud (l :: ls) ph = receiverRun baud ls ph' := by
  rw [receiverRun_cons, h, if_pos rfl]

/-- A phase that a level keeps. -/
theorem receiverRun_stays {l : Bool} {ph : RxPhase} (h : bitRxNext baud l ph = (ph, .none)) (n : Nat) :
    receiverRun baud (List.replicate n l) ph = ([], ph) := by
  induction n with
  | zero => rfl
  | succ n ih => rw [List.replicate_succ, receiverRun_quiet baud h, ih]

/-- A phase that counts steps down to its sample. -/
theorem receiverRun_counts {l : Bool} {ph : Nat → RxPhase} (h : ∀ k, bitRxNext baud l (ph (k + 1)) = (ph k, .none))
    (m n : Nat) : receiverRun baud (List.replicate n l) (ph (m + n)) = ([], ph m) := by
  induction n with
  | zero => rfl
  | succ n ih => rw [List.replicate_succ, ← Nat.add_assoc, receiverRun_quiet baud (h (m + n)), ih]

/-- The transition's own 0 counts as the first step of the start bit. -/
theorem bitRxNext_of_low : bitRxNext baud false .idle = bitRxNext baud false (.start (baud / 2)) := by
  simp only [bitRxNext, beginCharacter, stepsBefore, Bool.false_eq_true, if_false]
  cases baud / 2 <;> rfl

/-- A first 0 starts the count of the start bit. -/
theorem receiverRun_of_low {n : Nat} (hn : 0 < n) :
    receiverRun baud (List.replicate n false) .idle = receiverRun baud (List.replicate n false) (.start (baud / 2)) := by
  obtain ⟨n, rfl⟩ := Nat.exists_eq_succ_of_ne_zero hn.ne'
  rw [List.replicate_succ, receiverRun_cons, receiverRun_cons, bitRxNext_of_low]

/-- A start bit gone at its middle. -/
theorem receiverRun_falseStart (hhalf : 0 < baud / 2) :
    receiverRun baud (List.replicate (baud / 2) false ++ [true]) .idle = ([], .idle) := by
  have hwait := receiverRun_counts baud (l := false) (ph := .start) (fun _ => rfl) 0 (baud / 2)
  rw [Nat.zero_add, ← receiverRun_of_low baud hhalf] at hwait
  exact receiverRun_append baud hwait rfl

/-- What the receiver holds after `k` data bits of `b`, `left` steps before its next sample. -/
def receivedBits (b : Byte) (k left : Nat) : RxPhase :=
  if k < 8 then .data k left (b <<< (8 - k)) else .stop left b

variable {baud} in
/-- Between two samples the receiver counts. -/
theorem bitRxNext_counts {l : Bool} (b : Byte) {k : Nat} (left : Nat) :
    bitRxNext baud l (receivedBits b k (left + 1)) = (receivedBits b k left, .none) := by
  unfold receivedBits
  split_ifs <;> rfl

/-- A bit shifted in above the bits before it. -/
theorem shiftIn_eq (b : Byte) {k : Nat} (hk : k < 8) :
    (BitVec.ofBool (b.getLsbD k) ++ (b <<< (8 - k)).extractLsb' 1 7 : Byte) = b <<< (7 - k) := by
  refine BitVec.eq_of_getLsbD_eq fun i hi => ?_
  rw [BitVec.getLsbD_append, BitVec.getLsbD_extractLsb', BitVec.getLsbD_shiftLeft, BitVec.getLsbD_shiftLeft]
  by_cases htop : i = 7
  · have hbit : 7 - (7 - k) = k := by omega
    simp [htop, hbit]
  · have hlow : i < 7 := by omega
    have hsub : 1 + i - (8 - k) = i - (7 - k) := by omega
    have hnot : (1 + i < 8 - k) = (i < 7 - k) := by simp only [eq_iff_iff]; omega
    have hin : 1 + i < 8 := by omega
    simp [hlow, hsub, hnot, hin, hi]

/-- The sample of data bit `k` (R116). -/
theorem bitRxNext_dataBit (b : Byte) {k : Nat} (hk : k < 8) :
    bitRxNext baud (b.getLsbD k) (receivedBits b k 0) = (receivedBits b (k + 1) (stepsBefore baud), .none) := by
  have hsample : bitRxNext baud (b.getLsbD k) (.data k 0 (b <<< (8 - k))) =
      (if k = 7 then .stop (stepsBefore baud) (b <<< (7 - k)) else .data (k + 1) (stepsBefore baud) (b <<< (7 - k)),
        .none) := by
    rw [← shiftIn_eq b hk]
    rfl
  rw [receivedBits, if_pos hk, hsample]
  by_cases hlast : k = 7
  · rw [if_pos hlast, hlast, Nat.sub_self, BitVec.shiftLeft_zero]
    rfl
  · have hnext : k + 1 < 8 := by omega
    have hleft : 7 - k = 8 - (k + 1) := by omega
    rw [if_neg hlast, receivedBits, if_pos hnext, hleft]

variable {baud} (hbaud : 1 ≤ baud)
include hbaud

/-- A block of one level: the rest of the count, the sample, and what the rest of the block does. -/
theorem receiverRun_block {l : Bool} {ph : Nat → RxPhase} {ph' ph'' : RxPhase} {e : RxEvent}
    (hcount : ∀ k, bitRxNext baud l (ph (k + 1)) = (ph k, .none)) (hsample : bitRxNext baud l (ph 0) = (ph', e))
    (hrest : receiverRun baud (List.replicate (baud - 1 - baud / 2) l) ph' = ([], ph'')) :
    receiverRun baud (List.replicate baud l) (ph (baud / 2)) = (if e = .none then [] else [e], ph'') := by
  have hsplit : baud = baud / 2 + (1 + (baud - 1 - baud / 2)) := by omega
  have hblock : List.replicate baud l =
      List.replicate (baud / 2) l ++ ([l] ++ List.replicate (baud - 1 - baud / 2) l) := by
    conv_lhs => rw [hsplit, List.replicate_add, List.replicate_add]
    rfl
  have hone : receiverRun baud [l] (ph 0) = (if e = .none then [] else [e], ph') := by
    rw [receiverRun_cons, hsample]
    rfl
  have hwait := receiverRun_counts baud hcount 0 (baud / 2)
  rw [Nat.zero_add] at hwait
  rw [hblock, receiverRun_append baud hwait (receiverRun_append baud hone hrest), List.nil_append, List.append_nil]

/-- The rest of a sampled block counts towards the next sample. -/
theorem receiverRun_rest {l : Bool} {ph : Nat → RxPhase} (hcount : ∀ k, bitRxNext baud l (ph (k + 1)) = (ph k, .none)) :
    receiverRun baud (List.replicate (baud - 1 - baud / 2) l) (ph (stepsBefore baud)) = ([], ph (baud / 2)) := by
  have hleft : stepsBefore baud = baud / 2 + (baud - 1 - baud / 2) := by
    unfold stepsBefore
    omega
  rw [hleft]
  exact receiverRun_counts baud hcount _ _

/-- The start bit. -/
theorem receiverRun_startBit :
    receiverRun baud (List.replicate baud false) .idle = ([], .data 0 (baud / 2) 0) := by
  rw [receiverRun_of_low baud hbaud]
  exact receiverRun_block hbaud (ph := .start) (e := .none) (fun _ => rfl) rfl
    (receiverRun_rest hbaud (ph := (.data 0 · 0)) fun _ => rfl)

/-- A data bit. -/
theorem receiverRun_dataBit (b : Byte) {k : Nat} (hk : k < 8) :
    receiverRun baud (List.replicate baud (b.getLsbD k)) (receivedBits b k (baud / 2)) =
      ([], receivedBits b (k + 1) (baud / 2)) :=
  receiverRun_block hbaud (ph := receivedBits b k) (e := .none) (bitRxNext_counts b) (bitRxNext_dataBit baud b hk)
    (receiverRun_rest hbaud (bitRxNext_counts b))

/-- The eight data bits. -/
theorem receiverRun_dataBits (b : Byte) {k : Nat} (hk : k ≤ 8) :
    receiverRun baud ((List.range k).flatMap fun j => List.replicate baud (b.getLsbD j)) (.data 0 (baud / 2) 0) =
      ([], receivedBits b k (baud / 2)) := by
  induction k with
  | zero => simp [receivedBits, receiverRun]
  | succ k ih =>
    rw [List.range_succ, List.flatMap_append, List.flatMap_singleton]
    exact receiverRun_append baud (ih (Nat.le_of_succ_le hk)) (receiverRun_dataBit hbaud b hk)

/-- The start bit and the data bits. -/
theorem receiverRun_untilStop (b : Byte) :
    receiverRun baud (List.replicate baud false ++ (List.range 8).flatMap fun j => List.replicate baud (b.getLsbD j))
      .idle = ([], .stop (baud / 2) b) :=
  receiverRun_append baud (receiverRun_startBit hbaud) (receiverRun_dataBits hbaud b le_rfl)

/-- The stop bit. -/
theorem receiverRun_stopBit (b : Byte) :
    receiverRun baud (List.replicate baud true) (.stop (baud / 2) b) = ([.byte b], .idle) :=
  receiverRun_block hbaud (ph := (.stop · b)) (e := .byte b) (fun _ => rfl) rfl (receiverRun_stays baud rfl _)

/-- A 0 in place of the stop bit. -/
theorem receiverRun_brokenStop (b : Byte) :
    receiverRun baud (List.replicate baud false) (.stop (baud / 2) b) = ([.ferr], .waitHigh) :=
  receiverRun_block hbaud (ph := (.stop · b)) (e := .ferr) (fun _ => rfl) rfl (receiverRun_stays baud rfl _)

end

/-- Settles O22: the transmitter by the bit its count has reached, the receiver block by block. -/
theorem bitLevelCharacters : Obligations.BitLevelCharacters := by
  refine ⟨fun s k hline hframe hk hcnt => ?_, fun s hline => if_neg (by rw [hline]; decide), fun baud b hbaud =>
    ⟨?_, ?_, fun htwo => ?_⟩⟩
  · have hbaud : 0 < s.cfg.baudCycles := by omega
    have hcount : s.cfg.frameCycles - 1 - s.tx.cnt = k := by omega
    rw [characterLevels_eq, getElem?_flatMap_replicate hbaud]
    refine (some_txdLevel_of_busy hline (by rw [hcount]) ?_).symm
    exact Nat.div_lt_of_lt_mul (by omega)
  · exact receiverRun_append baud (receiverRun_untilStop hbaud b) (receiverRun_stopBit hbaud b)
  · have hlength : (List.replicate baud false ++
        (List.range 8).flatMap fun k => List.replicate baud (b.getLsbD k)).length = 9 * baud := by
      simp [List.length_flatMap]
      omega
    rw [characterLevels, List.take_left' hlength]
    exact receiverRun_append baud (receiverRun_untilStop hbaud b) (receiverRun_brokenStop hbaud b)
  · exact receiverRun_falseStart baud (Nat.div_pos htwo Nat.zero_lt_two)

end Sys2Proof.Machine
